-- ==== Sys2Proof/Word.lean ====
section
/-! DEFINITION. The word types of the block: bytes, the 16-bit CRC value, the 32-bit operands and registers, the 64-bit
command and response words (spec/00_scope.md R10, R12; spec/30_encoding.md R81, R84). All values are unsigned. -/

namespace Sys2Proof

/-- A byte of a memory or of a port. -/
abbrev Byte := BitVec 8

/-- The 16-bit CRC value (`CRC_WIDTH`, R8, R21). -/
abbrev Half := BitVec 16

/-- A 32-bit register, operand, offset or packet field (R10). -/
abbrev Word := BitVec 32

/-- A command word or a response word (R81, R84). -/
abbrev Frame := BitVec 64

end Sys2Proof
end

