-- ==== Sys2Proof/Machine/Constants.lean ====
section
/-! DEFINITION. The constants of spec/00_scope.md R8. The source's literals are unaudited (U1): each stands here once, so
that a corrected value changes one line (log entry 7). -/

namespace Sys2Proof.Machine

/-- `MAGIC`: the packet `header` constant (R130). -/
def magic : Word := 0x31764750#32

/-- `HEADER_SIZE`: bytes of the fixed packet header (R58). -/
def headerSize : Nat := 16

/-- `TYPE_SECURE_KEY` (R86): an operand the host uses; `PARSE` accepts any (R142). -/
def typeSecureKey : Word := 0x00000003#32

/-- `TYPE_SERIAL` (R86): an operand the host uses. -/
def typeSerial : Word := 0x00000001#32

/-- `POLY`: the CRC feedback constant (R112). -/
def poly : Half := 0x1021#16

/-- `PKT_SEED`: the CRC seed the framer uses (R133). -/
def pktSeed : Half := 0#16

/-- `SN_LEN`: bytes of the host's serial-number store region, host side only (R195). -/
def snLen : Nat := 64

end Sys2Proof.Machine
end

