-- ==== Sys2Proof/Syntax.lean ====
section
/-! DEFINITION. The thirteen commands of the block, one constructor per row of spec/opcode_table.json (spec/30_encoding.md
R91). Operands stand at the widths of R87. -/

namespace Sys2Proof

/-- A command (R18, R91). -/
inductive Instr where
  /-- `CRCSEED seed` (R114). -/
  | crcseed (seed : Half)
  /-- `CRCBYTE byte` (R115). -/
  | crcbyte (byte : Byte)
  /-- `PBW off, byte` (R132). -/
  | pbw (off : Word) (byte : Byte)
  /-- `PARSE expected_type` (R133). -/
  | parse (expectedType : Word)
  /-- `DLANN size` (R156). -/
  | dlann (size : Word)
  /-- `DLCHK data` (R157); the operand `len` is the number of data bytes (R88). -/
  | dlchk (data : List Byte)
  /-- `DLEND` (R159). -/
  | dlend
  /-- `ULANN size` (R162). -/
  | ulann (size : Word)
  /-- `ULCHK len` (R163). -/
  | ulchk (len : Word)
  /-- `ULEND` (R166). -/
  | ulend
  /-- `RDREG id` (R180). -/
  | rdreg (id : Byte)
  /-- `MRD space, off` (R181). -/
  | mrd (space : Byte) (off : Word)
  /-- `SRST` (R182). -/
  | srst
deriving DecidableEq, Repr

end Sys2Proof
end

