-- ==== Sys2Proof/WellFormed.lean ====
section
/-! DEFINITION. Which commands can be sent at all: every operand fits its field by its type, but for the data of `DLCHK`,
whose number of bytes is the 32-bit operand `len` (spec/30_encoding.md R88: "a byte sequence of length `len < 2^32`"). -/

namespace Sys2Proof

/-- The command has an encoding (R88). -/
abbrev Instr.WellFormed (i : Instr) : Prop :=
  match i with
  | .dlchk data => data.length < 2 ^ 32
  | .crcseed _ => True
  | .crcbyte _ => True
  | .pbw _ _ => True
  | .parse _ => True
  | .dlann _ => True
  | .dlend => True
  | .ulann _ => True
  | .ulchk _ => True
  | .ulend => True
  | .rdreg _ => True
  | .mrd _ _ => True
  | .srst => True

end Sys2Proof
end

