-- ==== Sys2Proof/Decode.lean ====
section
/-! DEFINITION. The decoder of the command port and the encoder, from spec/30_encoding.md R81 to R83, R91 to R95, R102, and
the byte-order helpers both ports and PKT share (spec/20_memory.md R50, R51). Decoding is total: a whole command, an illegal
word by name, or "wait for the rest" (R102). -/

namespace Sys2Proof

/-! ## Byte order (R50, R51, R81) -/

/-- The number a byte sequence stands for, the first byte least significant. -/
def leNat : List Byte → Nat
  | [] => 0
  | b :: bs => b.toNat + 256 * leNat bs

/-- The `n` bytes of a number, least significant first. -/
def leBytes : Nat → Nat → List Byte
  | 0, _ => []
  | n + 1, v => BitVec.ofNat 8 v :: leBytes n (v / 256)

/-! ## The fields of a command word (R81, R83) -/

/-- `op = w[63:56]`. -/
def wordOp (w : Frame) : BitVec 8 := w.extractLsb' 56 8

/-- `a = w[55:32]`. -/
def wordA (w : Frame) : BitVec 24 := w.extractLsb' 32 24

/-- `b = w[31:0]`. -/
def wordB (w : Frame) : Word := w.extractLsb' 0 32

/-- The word with the three fields `op`, `a`, `b`. -/
def joinWord (op : BitVec 8) (a : BitVec 24) (b : Word) : Frame :=
  op.setWidth 64 <<< 56 ||| a.setWidth 64 <<< 32 ||| b.setWidth 64

/-! ## The opcode map (R91) -/

/-- The rows of R91. -/
inductive Opcode where
  | crcseed | crcbyte | pbw | parse | dlann | dlchk | dlend | ulann | ulchk | ulend | rdreg | mrd | srst
deriving DecidableEq, Repr

/-- The opcode column of R91. -/
def Opcode.code : Opcode → BitVec 8
  | .crcseed => 0x10#8
  | .crcbyte => 0x11#8
  | .pbw => 0x20#8
  | .parse => 0x21#8
  | .dlann => 0x30#8
  | .dlchk => 0x31#8
  | .dlend => 0x32#8
  | .ulann => 0x38#8
  | .ulchk => 0x39#8
  | .ulend => 0x3A#8
  | .rdreg => 0x40#8
  | .mrd => 0x41#8
  | .srst => 0x7F#8

/-- Every row. -/
def Opcode.all : List Opcode :=
  [.crcseed, .crcbyte, .pbw, .parse, .dlann, .dlchk, .dlend, .ulann, .ulchk, .ulend, .rdreg, .mrd, .srst]

/-- The row with a given opcode, if one is assigned. -/
def Opcode.ofCode? (c : BitVec 8) : Option Opcode :=
  Opcode.all.find? fun o => o.code == c

/-- The seven formats of R82. -/
inductive Format where
  | z | w | wd | h | y | aw | a
deriving DecidableEq, Repr

/-- The format column of R91. -/
def Opcode.format : Opcode → Format
  | .crcseed => .h
  | .crcbyte => .y
  | .pbw => .aw
  | .parse => .w
  | .dlann => .w
  | .dlchk => .wd
  | .dlend => .z
  | .ulann => .w
  | .ulchk => .w
  | .ulend => .z
  | .rdreg => .a
  | .mrd => .aw
  | .srst => .z

/-- Every must-be-zero bit of the format is zero (R82, R83, R93). -/
def Format.reservedClear (f : Format) (a : BitVec 24) (b : Word) : Bool :=
  match f with
  | .z => a == 0#24 && b == 0#32
  | .w => a == 0#24
  | .wd => a == 0#24
  | .h => a == 0#24 && b.extractLsb' 16 16 == 0#16
  | .y => a == 0#24 && b.extractLsb' 8 24 == 0#24
  | .aw => a.extractLsb' 8 16 == 0#16
  | .a => a.extractLsb' 8 16 == 0#16 && b == 0#32

/-- The `match` column of R91: the decoder does not use it, the statements about the decoder do. -/
def Opcode.matchBits : Opcode → Frame
  | .crcseed => 0x1000000000000000#64
  | .crcbyte => 0x1100000000000000#64
  | .pbw => 0x2000000000000000#64
  | .parse => 0x2100000000000000#64
  | .dlann => 0x3000000000000000#64
  | .dlchk => 0x3100000000000000#64
  | .dlend => 0x3200000000000000#64
  | .ulann => 0x3800000000000000#64
  | .ulchk => 0x3900000000000000#64
  | .ulend => 0x3A00000000000000#64
  | .rdreg => 0x4000000000000000#64
  | .mrd => 0x4100000000000000#64
  | .srst => 0x7F00000000000000#64

/-- The `mask` column of R91. -/
def Opcode.maskBits : Opcode → Frame
  | .crcseed => 0xFFFFFFFFFFFF0000#64
  | .crcbyte => 0xFFFFFFFFFFFFFF00#64
  | .pbw => 0xFFFFFF0000000000#64
  | .parse => 0xFFFFFFFF00000000#64
  | .dlann => 0xFFFFFFFF00000000#64
  | .dlchk => 0xFFFFFFFF00000000#64
  | .dlend => 0xFFFFFFFFFFFFFFFF#64
  | .ulann => 0xFFFFFFFF00000000#64
  | .ulchk => 0xFFFFFFFF00000000#64
  | .ulend => 0xFFFFFFFFFFFFFFFF#64
  | .rdreg => 0xFFFFFF00FFFFFFFF#64
  | .mrd => 0xFFFFFF0000000000#64
  | .srst => 0xFFFFFFFFFFFFFFFF#64

/-! ## Decoding one word (R91, R92) -/

/-- What one legal word gives: a whole command, or a `DLCHK` whose `len` data bytes follow (R95). -/
inductive Head where
  | whole (i : Instr)
  | withData (len : Word)
deriving DecidableEq, Repr

/-- Why a word is illegal: the two cases R92 lists. The block answers both alike. -/
inductive IllegalWord where
  /-- The opcode is not one of the thirteen. -/
  | unassignedOpcode (op : BitVec 8)
  /-- The opcode is assigned and a must-be-zero bit of its format is set (R93). -/
  | reservedBitSet (o : Opcode)
deriving DecidableEq, Repr

/-- The operand columns of R91, with the fields as they stand (R87). -/
def Opcode.head (o : Opcode) (a : BitVec 24) (b : Word) : Head :=
  match o with
  | .crcseed => .whole (.crcseed (b.extractLsb' 0 16))
  | .crcbyte => .whole (.crcbyte (b.extractLsb' 0 8))
  | .pbw => .whole (.pbw b (a.extractLsb' 0 8))
  | .parse => .whole (.parse b)
  | .dlann => .whole (.dlann b)
  | .dlchk => .withData b
  | .dlend => .whole .dlend
  | .ulann => .whole (.ulann b)
  | .ulchk => .whole (.ulchk b)
  | .ulend => .whole .ulend
  | .rdreg => .whole (.rdreg (a.extractLsb' 0 8))
  | .mrd => .whole (.mrd (a.extractLsb' 0 8) b)
  | .srst => .whole .srst

/-- The decoder of one 64-bit word: total (R102). -/
def decodeWord (w : Frame) : Except IllegalWord Head :=
  match Opcode.ofCode? (wordOp w) with
  | none => .error (.unassignedOpcode (wordOp w))
  | some o =>
    if o.format.reservedClear (wordA w) (wordB w) then .ok (o.head (wordA w) (wordB w)) else .error (.reservedBitSet o)

/-! ## Decoding the byte stream of the command port (R81, R95, R102) -/

/-- What stands at the front of the command port. -/
inductive Decoded where
  /-- A whole command, and the bytes after it. -/
  | command (i : Instr) (rest : List Byte)
  /-- A word that matches no row, and the bytes after its eight: it has no data phase (R92). -/
  | illegal (why : IllegalWord) (rest : List Byte)
  /-- The stream ends inside a word or inside a data phase: it holds no further command (R102). -/
  | waiting
deriving DecidableEq, Repr

/-- The front of a byte stream: eight bytes are a word, least significant byte first (R81); the `len` data bytes of a
`DLCHK` follow it, the first to the lowest offset (R95). -/
def decode (bs : List Byte) : Decoded :=
  if 8 ≤ bs.length then
    match decodeWord (BitVec.ofNat 64 (leNat (bs.take 8))) with
    | .error why => .illegal why (bs.drop 8)
    | .ok (.whole i) => .command i (bs.drop 8)
    | .ok (.withData len) =>
      if len.toNat ≤ (bs.drop 8).length then
        .command (.dlchk ((bs.drop 8).take len.toNat)) ((bs.drop 8).drop len.toNat)
      else .waiting
  else .waiting

/-! ## The encoder (R81, R82, R91, R95) -/

/-- The row of a command. -/
def Instr.opcode : Instr → Opcode
  | .crcseed _ => .crcseed
  | .crcbyte _ => .crcbyte
  | .pbw _ _ => .pbw
  | .parse _ => .parse
  | .dlann _ => .dlann
  | .dlchk _ => .dlchk
  | .dlend => .dlend
  | .ulann _ => .ulann
  | .ulchk _ => .ulchk
  | .ulend => .ulend
  | .rdreg _ => .rdreg
  | .mrd _ _ => .mrd
  | .srst => .srst

/-- Operand field `a` of a command (R82). -/
def Instr.fieldA : Instr → BitVec 24
  | .pbw _ byte => byte.setWidth 24
  | .rdreg id => id.setWidth 24
  | .mrd space _ => space.setWidth 24
  | .crcseed _ => 0#24
  | .crcbyte _ => 0#24
  | .parse _ => 0#24
  | .dlann _ => 0#24
  | .dlchk _ => 0#24
  | .dlend => 0#24
  | .ulann _ => 0#24
  | .ulchk _ => 0#24
  | .ulend => 0#24
  | .srst => 0#24

/-- Operand field `b` of a command (R82). -/
def Instr.fieldB : Instr → Word
  | .crcseed seed => seed.setWidth 32
  | .crcbyte byte => byte.setWidth 32
  | .pbw off _ => off
  | .parse t => t
  | .dlann size => size
  | .dlchk data => BitVec.ofNat 32 data.length
  | .dlend => 0#32
  | .ulann size => size
  | .ulchk len => len
  | .ulend => 0#32
  | .rdreg _ => 0#32
  | .mrd _ off => off
  | .srst => 0#32

/-- The command word. -/
def encodeWord (i : Instr) : Frame :=
  joinWord i.opcode.code i.fieldA i.fieldB

/-- The data phase: the bytes that follow the word (R95). -/
def Instr.dataPhase : Instr → List Byte
  | .dlchk data => data
  | .crcseed _ => []
  | .crcbyte _ => []
  | .pbw _ _ => []
  | .parse _ => []
  | .dlann _ => []
  | .dlend => []
  | .ulann _ => []
  | .ulchk _ => []
  | .ulend => []
  | .rdreg _ => []
  | .mrd _ _ => []
  | .srst => []

/-- The bytes of a command on the command port. -/
def encode (i : Instr) : List Byte :=
  leBytes 8 (encodeWord i).toNat ++ i.dataPhase

/-! ## The host's words, numbered as spec/opcode_table.json numbers them -/

/-- How many data bytes follow the word `w`: `len` for a legal `DLCHK`, else none (R92, R95). -/
def dataPhaseLength (w : Frame) : Nat :=
  match decodeWord w with
  | .ok (.withData len) => len.toNat
  | .ok (.whole _) => 0
  | .error _ => 0

/-- The bytes, as the port carries them, of an instruction whose low `nbits` bits are those of `w` and whose other bits are
zero, up to the end of its data phase. -/
def tableBytes (nbits w : Nat) : List Byte :=
  leBytes (8 + dataPhaseLength (BitVec.ofNat 64 (w % 2 ^ nbits))) (w % 2 ^ nbits)

/-- The instruction this decoder reads from the bits `w` of a row of the opcode table. -/
def decodeTableWord (nbits w : Nat) : Option Instr :=
  match decode (tableBytes nbits w) with
  | .command i _ => some i
  | .illegal _ _ => none
  | .waiting => none

end Sys2Proof
end

