-- ==== Sys2Proof/Config.lean ====
section
/-! DEFINITION. What the implementation fixes and the spec leaves open: the parameters of spec/00_scope.md R9, and the free
values (contents of unwritten memory, spec/10_state.md R44; the text after FAIL, spec/30_encoding.md R85). The free values
are constants with no body, so no proof can use a value of one. Log entries 1, 2 and 9. -/

namespace Sys2Proof.Config

/-- The four numeric parameters of R9. They are configuration: no command and no reset changes them (R35). -/
structure Params where
  /-- `PKT_CAPACITY`: bytes of the packet buffer PKT. -/
  pktCapacity : Nat
  /-- `FB_BUF_SIZE`: bytes of the staging buffer STG. -/
  fbBufSize : Nat
  /-- `UL_SRC_SIZE`: bytes of the upload source region SRC. -/
  ulSrcSize : Nat
  /-- `PROGRESS_INTERVAL`: bytes between progress indications. -/
  progressInterval : Nat
deriving DecidableEq, Repr

/-- The constraints of R9 (R245 (1)). A statement that needs them takes them as a hypothesis (U7 of
spec/93_implementation_defined.md). -/
abbrev Params.Valid (p : Params) : Prop :=
  (16 ≤ p.pktCapacity ∧ p.pktCapacity < 2 ^ 32) ∧ (1 ≤ p.fbBufSize ∧ p.fbBufSize < 2 ^ 32) ∧
    (1 ≤ p.ulSrcSize ∧ p.ulSrcSize < 2 ^ 32) ∧ (1 ≤ p.progressInterval ∧ p.progressInterval < 2 ^ 32)

/-- How far `PKT_CAPACITY` lies above its least value 16: open (R9; log entry 1). -/
opaque pktCapacityAbove : Fin 4294967280

/-- How far `FB_BUF_SIZE` lies above its least value 1: open (R9; log entry 1). -/
opaque fbBufSizeAbove : Fin 4294967295

/-- How far `UL_SRC_SIZE` lies above its least value 1: open (R9; log entry 1). -/
opaque ulSrcSizeAbove : Fin 4294967295

/-- How far `PROGRESS_INTERVAL` lies above its least value 1: open (R9; log entry 1). -/
opaque progressIntervalAbove : Fin 4294967295

/-- The parameters of the machine that is reset: any values within the constraints of R9, and nothing else is known of
them (log entry 1). -/
def params : Params where
  pktCapacity := 16 + pktCapacityAbove.val
  fbBufSize := 1 + fbBufSizeAbove.val
  ulSrcSize := 1 + ulSrcSizeAbove.val
  progressInterval := 1 + progressIntervalAbove.val

/-- `REASON_TEXT` (R9, R85, U3): the text after FAIL for a reason code, "function from reason code to ASCII string": a list of
ASCII codes. Open (log entry 9). -/
opaque reasonText : BitVec 8 → List (Fin 128)

/-- What a byte of PKT that no command has written reads as, by the number of hardware resets so far and the offset.
Free: "fixed for the run and under no law" (R44, U2; log entries 2 and 6). -/
opaque pktLaunch : Nat → Nat → Byte

/-- The same for STG (R44, U2; log entries 2 and 6). -/
opaque stgLaunch : Nat → Nat → Byte

/-- What the platform placed in SRC, by offset (R40, R44: no reset changes it; log entry 2). -/
opaque srcLaunch : Nat → Byte

end Sys2Proof.Config
end

