-- ==== Sys2Proof/Machine/State.lean ====
section
/-! DEFINITION. The state of the block: the ten registers and three memories of spec/10_state.md R43, the configuration of
spec/00_scope.md R9, the two ports and the reset input of spec/00_scope.md R5(d). Plain data. The state right after reset is
spec/70_reset_and_hazards.md R240, R241. -/

namespace Sys2Proof.Machine

/-- The values `fb_phase` can hold, and no others (R26; U13). -/
inductive Phase where
  | idle | announced | transferring | complete | aborted
deriving DecidableEq, Repr

/-- The values of `fb_dir` (R27). -/
inductive Dir where
  | download | upload
deriving DecidableEq, Repr

/-- The values `pkt_status` can hold, and no others (R22; U13). -/
inductive PktStatus where
  | notValidated | headerMismatch | typeMismatch | lengthTooLarge | crcMismatch | valid
deriving DecidableEq, Repr

/-- The ten failure reasons (spec/60_exceptions.md R210). -/
inductive Reason where
  | headerMismatch | typeMismatch | lengthTooLarge | crcMismatch
  | invalidSize | sizeTooLarge | invalidChunk
  | illegalCommand | badState | badAddress
deriving DecidableEq, Repr

/-- A response (R84): the three kinds of the source's protocol. -/
inductive Response where
  /-- `OKAY(value, progress)`, followed on the response port by `data`, which only an accepted `ULCHK` has (R96). -/
  | okay (value : Word) (progress : Bool) (data : List Byte)
  /-- `FAIL(reason)` (R14, R211). -/
  | fail (reason : Reason)
  /-- `DATA(value)` (R156, R162). -/
  | size (value : Word)
deriving DecidableEq, Repr

/-- The three memories, each its own address space (R37). -/
inductive Space where
  | pkt | stg | src
deriving DecidableEq, Repr

/-- A memory: the bytes that hold a value of their own, addresses strictly rising. An address that is not listed has never
been written; what it reads as is its launch value (R44; log entry 2). -/
abbrev Memory := List Host.Cell

/-- The canonical form of a memory: addresses strictly rising, so that a byte is listed once. -/
abbrev Memory.wf (m : Memory) : Prop := m.Pairwise fun p q => p.1 < q.1

/-- The whole state. -/
structure State where
  /-- The running CRC value (R21). -/
  crc : Half
  /-- Result of the last validation (R22). -/
  pktStatus : PktStatus
  /-- Validated payload length (R23). -/
  pktLen : Word
  /-- Type the packet was validated against (R24). -/
  pktType : Word
  /-- Phase of the transfer state machine (R26). -/
  fbPhase : Phase
  /-- Direction of the current or last transfer (R27). -/
  fbDir : Dir
  /-- Announced size (R28). -/
  bytesExpected : Word
  /-- Bytes accepted so far, download (R29). -/
  bytesReceived : Word
  /-- Bytes sent so far, upload (R30). -/
  bytesSent : Word
  /-- Size published by the last completed download (R31). -/
  imageSize : Word
  /-- The packet buffer PKT (R38). -/
  pkt : Memory
  /-- The staging buffer STG (R39). -/
  stg : Memory
  /-- The upload source region SRC (R40). -/
  src : Memory
  /-- The parameters (R9, R35): no step changes them (log entry 1). -/
  cfg : Config.Params
  /-- MODEL'S OWN: hardware resets so far, to which the free launch values of PKT and STG are applied (log entry 6). -/
  epoch : Nat
  /-- The command port: what the host has presented and the block has not taken (R81, R95; log entry 3). -/
  cmdPort : List Byte
  /-- The response port: responses given, oldest first (R84; log entry 4). -/
  rspPort : List Response
  /-- The reset input has been asserted since the last step (R240; log entry 6). -/
  resetPin : Bool
deriving DecidableEq, Repr

/-- Why a step stops. A failure of a command is no such stop: it is a `FAIL` response and a next state (R221). -/
inductive Fault where
  /-- Raised by `step` alone, when the command port holds nothing: "the block simply waits for the first command" (R243),
  "waits without limit for the next command" (R256). Safe: the model stops where the block waits. -/
  | portEmpty
  /-- Raised by `step` alone, when the command port ends inside a word or a data phase: "the block waits for the rest and
  executes nothing of the incomplete command" (R102; U4: stuck). Safe: the model stops where the block waits. -/
  | commandIncomplete
deriving DecidableEq, Repr

/-- What the model gives no meaning. -/
inductive Refusal where
  /-- Raised by `exec` for an instruction without a meaning yet: none is left. Safe. -/
  | notModelled (mnemonic : String)
  /-- Raised by `step` alone: a hardware reset asserted while part of a command is on the port "is outside this spec"
  (R244; U9: refuse). Safe: the model stops. -/
  | resetMidCommand
deriving DecidableEq, Repr

/-- The state right after a hardware reset: every register zero (R241, R20), no command on the port, no response pending,
the reset input released (R240); no byte of any memory written; the parameters as the implementation fixed them. -/
def State.reset : State where
  crc := 0#16
  pktStatus := .notValidated
  pktLen := 0#32
  pktType := 0#32
  fbPhase := .idle
  fbDir := .download
  bytesExpected := 0#32
  bytesReceived := 0#32
  bytesSent := 0#32
  imageSize := 0#32
  pkt := []
  stg := []
  src := []
  cfg := Config.params
  epoch := 0
  cmdPort := []
  rspPort := []
  resetPin := false

end Sys2Proof.Machine
end

