-- ==== Sys2Proof/Machine/Ops.lean ====
section
/-! DEFINITION. The named operations over memory, registers and ports that the commands share, and the one way a command
fails (spec/60_exceptions.md R211, R221, R222). Memory accesses follow spec/20_memory.md R50 to R57. -/

namespace Sys2Proof.Machine

/-! ## Memory (R13, R37, R44) -/

/-- The byte an address lists, none if it has never been written. -/
def Memory.lookup : Memory → Nat → Option Byte
  | [], _ => none
  | c :: m, a => if c.1 = a then some c.2 else Memory.lookup m a

/-- `m[a] <- b`, keeping addresses strictly rising. -/
def Memory.write : Memory → Nat → Byte → Memory
  | [], a, b => [(a, b)]
  | c :: m, a, b =>
    if a < c.1 then (a, b) :: c :: m
    else if a = c.1 then (a, b) :: m
    else c :: Memory.write m a b

/-- Bytes stored at `a`, `a+1`, ... in order (R160). -/
def Memory.writeBytes : Memory → Nat → List Byte → Memory
  | m, _, [] => m
  | m, a, b :: bs => Memory.writeBytes (m.write a b) (a + 1) bs

/-- What the memory `sp` lists. -/
def State.memory (s : State) : Space → Memory
  | .pkt => s.pkt
  | .stg => s.stg
  | .src => s.src

/-- What a byte that no command has written reads as (R44): free, the same until written or until the next hardware reset;
SRC as the platform set it, through every reset (R240). -/
def State.launchByte (s : State) : Space → Nat → Byte
  | .pkt, off => Config.pktLaunch s.epoch off
  | .stg, off => Config.stgLaunch s.epoch off
  | .src, off => Config.srcLaunch off

/-- One byte of a memory: the latest byte written there, or the launch value if there is none (R63). No side effect (R56). -/
def State.read (s : State) (sp : Space) (off : Nat) : Byte :=
  ((s.memory sp).lookup off).getD (s.launchByte sp off)

/-- `space[a .. a+n)` (R13). -/
def State.readBytes (s : State) (sp : Space) (a n : Nat) : List Byte :=
  (List.range n).map fun k => s.read sp (a + k)

/-- `LE32(PKT, off)`: four bytes of PKT, least significant first (R50). -/
def State.le32 (s : State) (off : Nat) : Word :=
  BitVec.ofNat 32 (leNat (s.readBytes .pkt off 4))

/-- `PKT[off] <- b`. -/
def State.storePkt (off : Nat) (b : Byte) (s : State) : State :=
  { s with pkt := s.pkt.write off b }

/-- `STG[off + k] <- data[k]` for every byte of the chunk (R160). -/
def State.storeStg (off : Nat) (data : List Byte) (s : State) : State :=
  { s with stg := s.stg.writeBytes off data }

/-- The size of a memory (R37). -/
def State.spaceSize (s : State) : Space → Nat
  | .pkt => s.cfg.pktCapacity
  | .stg => s.cfg.fbBufSize
  | .src => s.cfg.ulSrcSize

/-! ## Registers -/

/-- The result registers of unit FRM (R22 to R24). -/
def State.setPktResult (status : PktStatus) (len type : Word) (s : State) : State :=
  { s with pktStatus := status, pktLen := len, pktType := type }

/-- `fb_phase <- p`. -/
def State.setPhase (p : Phase) (s : State) : State :=
  { s with fbPhase := p }

/-- What an accepted announce writes (R156, R162). -/
def State.announce (d : Dir) (size : Word) (s : State) : State :=
  { s with bytesExpected := size, bytesReceived := 0#32, bytesSent := 0#32, fbDir := d, fbPhase := .announced }

/-- What completing a transfer writes in either direction (R159, R166). -/
def State.finishTransfer (s : State) : State :=
  { s with bytesExpected := 0#32, bytesReceived := 0#32, bytesSent := 0#32, fbPhase := .complete }

/-- Every register back to its reset value, no memory byte changed (R182, R241, R242). -/
def State.resetRegisters (s : State) : State :=
  { s with
    crc := 0#16, pktStatus := .notValidated, pktLen := 0#32, pktType := 0#32, fbPhase := .idle, fbDir := .download,
    bytesExpected := 0#32, bytesReceived := 0#32, bytesSent := 0#32, imageSize := 0#32 }

/-! ## Ports -/

/-- The response that ends a command (R11, R14, R84). -/
def State.respond (r : Response) (s : State) : State :=
  { s with rspPort := s.rspPort ++ [r] }

/-- `respond OKAY(v)`. -/
def State.respondOkay (v : Word) (s : State) : State :=
  s.respond (.okay v false [])

/-- The block takes a command from the port; `rest` is what the host presented after it (R102). -/
def State.takeCommand (rest : List Byte) (s : State) : State :=
  { s with cmdPort := rest }

/-! ## Failing -/

/-- The register writes a failure makes (R211): the result registers for the four reasons of `PARSE` (R134), `fb_phase` for
`InvalidChunk` (R158, R165), nothing for any other reason. No memory byte (R222). -/
def State.failureWrites (r : Reason) (s : State) : State :=
  match r with
  | .headerMismatch => s.setPktResult .headerMismatch 0#32 0#32
  | .typeMismatch => s.setPktResult .typeMismatch 0#32 0#32
  | .lengthTooLarge => s.setPktResult .lengthTooLarge 0#32 0#32
  | .crcMismatch => s.setPktResult .crcMismatch 0#32 0#32
  | .invalidChunk => s.setPhase .aborted
  | .invalidSize => s
  | .sizeTooLarge => s
  | .illegalCommand => s
  | .badState => s
  | .badAddress => s

/-- `raise FAIL(r)` (R14, R221): the register writes of the reason, the `FAIL` response, and nothing else: no state is saved,
no mode changes, control goes nowhere. There is nothing to return from (R224): the next command is taken as usual. -/
def State.raiseFail (r : Reason) (s : State) : State :=
  (s.failureWrites r).respond (.fail r)

/-! ## The hardware reset (R240 to R242) -/

/-- The reset input was asserted and is released: every register at its reset value, no response pending, PKT and STG
unspecified afresh, SRC and the parameters as they were; what the host presents next stands at a word boundary. -/
def State.hardwareReset (s : State) : State :=
  { s.resetRegisters with pkt := [], stg := [], epoch := s.epoch + 1, rspPort := [], resetPin := false }

end Sys2Proof.Machine
end

