-- ==== Sys2Proof/Machine/Crc.lean ====
section
/-! DEFINITION. Unit CRC: the algorithm of spec/40_crc_engine.md R110 to R112 and the commands `CRCSEED` (R114) and `CRCBYTE`
(R115). -/

namespace Sys2Proof.Machine

/-- One of the eight rounds: bit 15 is tested before the shift, the shift drops it (R110). -/
def crcRound (v : Half) : Half :=
  if v.getLsbD 15 then v <<< 1 ^^^ poly else v <<< 1

/-- `n` rounds. -/
def crcRounds : Nat → Half → Half
  | 0, v => v
  | n + 1, v => crcRounds n (crcRound v)

/-- `crc_step(c, b)` (R110): the byte into the high half, then eight rounds. -/
def crcStep (c : Half) (b : Byte) : Half :=
  crcRounds 8 (c ^^^ b.setWidth 16 <<< 8)

/-- `CRC16(seed, data)` (R111): a left fold of `crc_step` from the seed. -/
def crc16 (seed : Half) (data : List Byte) : Half :=
  data.foldl crcStep seed

/-- `CRCSEED seed` (R114). -/
def execCrcseed (seed : Half) (s : State) : Host.Outcome State Fault Refusal :=
  .next ({ s with crc := seed }.respondOkay (seed.setWidth 32))

/-- `CRCBYTE byte` (R115): the response carries the new value. -/
def execCrcbyte (byte : Byte) (s : State) : Host.Outcome State Fault Refusal :=
  .next ({ s with crc := crcStep s.crc byte }.respondOkay ((crcStep s.crc byte).setWidth 32))

end Sys2Proof.Machine
end

