-- ==== Sys2Proof/Machine/Flags.lean ====
section
/-! DEFINITION. The codes of the status registers and of the failure reasons (spec/10_state.md R22, R26, R27;
spec/60_exceptions.md R210) and the progress flag (spec/42_fastboot_transfer.md R161). These are the block's only flags
(R33). -/

namespace Sys2Proof.Machine

/-- The 8-bit value of `pkt_status` (R22). -/
def PktStatus.code : PktStatus → BitVec 8
  | .notValidated => 0x00#8
  | .headerMismatch => 0x01#8
  | .typeMismatch => 0x02#8
  | .lengthTooLarge => 0x03#8
  | .crcMismatch => 0x04#8
  | .valid => 0x80#8

/-- The 3-bit value of `fb_phase` (R26). -/
def Phase.code : Phase → BitVec 3
  | .idle => 0#3
  | .announced => 1#3
  | .transferring => 2#3
  | .complete => 3#3
  | .aborted => 4#3

/-- The 1-bit value of `fb_dir` (R27). -/
def Dir.code : Dir → BitVec 1
  | .download => 0#1
  | .upload => 1#1

/-- The 8-bit reason code (R210). -/
def Reason.code : Reason → BitVec 8
  | .headerMismatch => 0x01#8
  | .typeMismatch => 0x02#8
  | .lengthTooLarge => 0x03#8
  | .crcMismatch => 0x04#8
  | .invalidSize => 0x11#8
  | .sizeTooLarge => 0x12#8
  | .invalidChunk => 0x13#8
  | .illegalCommand => 0x21#8
  | .badState => 0x22#8
  | .badAddress => 0x23#8

/-- The phases in which a transfer is live (R18). -/
def Phase.live : Phase → Bool
  | .announced => true
  | .transferring => true
  | .idle => false
  | .complete => false
  | .aborted => false

/-- The progress flag of an accepted chunk: the counter crossed a multiple of `PROGRESS_INTERVAL` (R161). -/
def progressFlag (interval before after : Nat) : Bool :=
  before / interval != after / interval

end Sys2Proof.Machine
end

