-- ==== Sys2Proof/Machine/Operands.lean ====
section
/-! DEFINITION. What the operands of `RDREG` and `MRD` name (spec/10_state.md R34, R35, R37), and when a chunk's length and an
announced size are acceptable (spec/42_fastboot_transfer.md R151, R153, R157, R163). -/

namespace Sys2Proof.Machine

/-- The registers `RDREG` can read: the ten of R20 and the four hardwired parameters (R34). -/
inductive RegName where
  | crc | pktStatus | pktLen | pktType | fbPhase | fbDir | bytesExpected | bytesReceived | bytesSent | imageSize
  | pktCapacity | fbBufSize | ulSrcSize | progressInterval
deriving DecidableEq, Repr

/-- The id column of R34. -/
def RegName.id : RegName → BitVec 8
  | .crc => 0x00#8
  | .pktStatus => 0x01#8
  | .pktLen => 0x02#8
  | .pktType => 0x03#8
  | .fbPhase => 0x04#8
  | .fbDir => 0x05#8
  | .bytesExpected => 0x06#8
  | .bytesReceived => 0x07#8
  | .bytesSent => 0x08#8
  | .imageSize => 0x09#8
  | .pktCapacity => 0x10#8
  | .fbBufSize => 0x11#8
  | .ulSrcSize => 0x12#8
  | .progressInterval => 0x13#8

/-- Every register of R34. -/
def RegName.all : List RegName :=
  [.crc, .pktStatus, .pktLen, .pktType, .fbPhase, .fbDir, .bytesExpected, .bytesReceived, .bytesSent, .imageSize,
    .pktCapacity, .fbBufSize, .ulSrcSize, .progressInterval]

/-- The register an id names; every other id names none (R34). -/
def RegName.ofId? (id : BitVec 8) : Option RegName :=
  RegName.all.find? fun r => r.id == id

/-- `zext_32(reg[id])` (R34, R35). -/
def State.readReg (s : State) : RegName → Word
  | .crc => s.crc.setWidth 32
  | .pktStatus => s.pktStatus.code.setWidth 32
  | .pktLen => s.pktLen
  | .pktType => s.pktType
  | .fbPhase => s.fbPhase.code.setWidth 32
  | .fbDir => s.fbDir.code.setWidth 32
  | .bytesExpected => s.bytesExpected
  | .bytesReceived => s.bytesReceived
  | .bytesSent => s.bytesSent
  | .imageSize => s.imageSize
  | .pktCapacity => BitVec.ofNat 32 s.cfg.pktCapacity
  | .fbBufSize => BitVec.ofNat 32 s.cfg.fbBufSize
  | .ulSrcSize => BitVec.ofNat 32 s.cfg.ulSrcSize
  | .progressInterval => BitVec.ofNat 32 s.cfg.progressInterval

/-- The memory a space id names; a space above 2 names none (R37, R181). -/
def Space.ofId? (id : BitVec 8) : Option Space :=
  if id = 0#8 then some .pkt else if id = 1#8 then some .stg else if id = 2#8 then some .src else none

/-- A chunk or complete command of direction `d` is accepted: a transfer is live and has that direction (R153). -/
def State.accepts (d : Dir) (s : State) : Bool :=
  s.fbPhase.live && s.fbDir == d

/-- The one check of a chunk, on natural numbers: "as if with a 33-bit adder" (R151, R157, R163). -/
def chunkInvalid (count : Word) (len : Nat) (expected : Word) : Bool :=
  len == 0 || expected.toNat < count.toNat + len

end Sys2Proof.Machine
end

