-- ==== Sys2Proof/Machine/Fastboot.lean ====
section
/-! DEFINITION. Unit FBT: `DLANN`, `DLCHK`, `DLEND` (spec/42_fastboot_transfer.md R156 to R160) and `ULANN`, `ULCHK`, `ULEND`
(R162 to R166), with the acceptance table R153, the order of checks R154 and the arithmetic R151. -/

namespace Sys2Proof.Machine

/-- An announce of direction `d` bounded by `limit`: `InvalidSize` before `SizeTooLarge`; a refused announce changes nothing;
an accepted one answers `DATA(size)` (R154, R156, R162). Accepted in every phase (R153). -/
def State.announceChecked (d : Dir) (limit : Nat) (size : Word) (s : State) : State :=
  if size = 0#32 then s.raiseFail .invalidSize
  else if limit < size.toNat then s.raiseFail .sizeTooLarge
  else (s.announce d size).respond (.size size)

/-- `DLANN size` (R156). -/
def execDlann (size : Word) (s : State) : Host.Outcome State Fault Refusal :=
  .next (s.announceChecked .download s.cfg.fbBufSize size)

/-- What an accepted `DLCHK` does: the copy, the counter, the phase, the response with the progress flag (R157, R160). -/
def State.downloadChunk (data : List Byte) (s : State) : State :=
  let before := s.bytesReceived.toNat
  let after := before + data.length
  { s.storeStg before data with bytesReceived := BitVec.ofNat 32 after, fbPhase := .transferring }.respond
    (.okay (BitVec.ofNat 32 after) (progressFlag s.cfg.progressInterval before after) [])

/-- `DLCHK data` (R157, R158). -/
def execDlchk (data : List Byte) (s : State) : Host.Outcome State Fault Refusal :=
  .next <|
    if !s.accepts .download then s.raiseFail .badState
    else if chunkInvalid s.bytesReceived data.length s.bytesExpected then s.raiseFail .invalidChunk
    else s.downloadChunk data

/-- `DLEND` (R159): publishes `image_size`, compares nothing. -/
def execDlend (s : State) : Host.Outcome State Fault Refusal :=
  .next <|
    if !s.accepts .download then s.raiseFail .badState
    else { s.finishTransfer with imageSize := s.bytesReceived }.respondOkay s.bytesReceived

/-- `ULANN size` (R162). -/
def execUlann (size : Word) (s : State) : Host.Outcome State Fault Refusal :=
  .next (s.announceChecked .upload s.cfg.ulSrcSize size)

/-- What an accepted `ULCHK` does: the counter, the phase, the response with the progress flag, followed by the bytes
`SRC[before .. before+len)` (R163, R164, R96). -/
def State.uploadChunk (len : Nat) (s : State) : State :=
  let before := s.bytesSent.toNat
  let after := before + len
  { s with bytesSent := BitVec.ofNat 32 after, fbPhase := .transferring }.respond
    (.okay (BitVec.ofNat 32 after) (progressFlag s.cfg.progressInterval before after) (s.readBytes .src before len))

/-- `ULCHK len` (R163, R165). -/
def execUlchk (len : Word) (s : State) : Host.Outcome State Fault Refusal :=
  .next <|
    if !s.accepts .upload then s.raiseFail .badState
    else if chunkInvalid s.bytesSent len.toNat s.bytesExpected then s.raiseFail .invalidChunk
    else s.uploadChunk len.toNat

/-- `ULEND` (R166): the counters to zero, `image_size` left alone. -/
def execUlend (s : State) : Host.Outcome State Fault Refusal :=
  .next <|
    if !s.accepts .upload then s.raiseFail .badState
    else s.finishTransfer.respondOkay s.bytesSent

end Sys2Proof.Machine
end

