-- ==== Sys2Proof/Machine/Framer.lean ====
section
/-! DEFINITION. Unit FRM: `PBW` (spec/41_packet_framer.md R132) and `PARSE` (R131, R133 to R137, R141, R142), on the packet
layout of spec/20_memory.md R58. -/

namespace Sys2Proof.Machine

/-- `PBW off, byte` (R132): an accepted write withdraws the validation, a refused one changes nothing. -/
def execPbw (off : Word) (byte : Byte) (s : State) : Host.Outcome State Fault Refusal :=
  .next <|
    if s.cfg.pktCapacity ≤ off.toNat then s.raiseFail .badAddress
    else ((s.storePkt off.toNat byte).setPktResult .notValidated 0#32 0#32).respondOkay 0#32

/-- The `header` field (R58). -/
def State.pktHeader (s : State) : Word := s.le32 0

/-- The `type` field (R58). -/
def State.pktTypeField (s : State) : Word := s.le32 4

/-- The `length` field (R58). -/
def State.pktLength (s : State) : Word := s.le32 8

/-- The `crc` field, all 32 bits of it (R58, R135). -/
def State.pktCrcField (s : State) : Word := s.le32 12

/-- The CRC of the payload: of its `length` bytes and no other, with seed 0 (R130, R131, R133 step 5). -/
def State.payloadCrc (s : State) : Half :=
  crc16 pktSeed (s.readBytes .pkt headerSize s.pktLength.toNat)

/-- The first check that fails, in the order header, type, length, CRC (R133 steps 2 to 5, R137); none if the packet is
valid. The payload is read only when the first three pass (R131). -/
def State.packetFailure (expectedType : Word) (s : State) : Option Reason :=
  if s.pktHeader ≠ magic then some .headerMismatch
  else if s.pktTypeField ≠ expectedType then some .typeMismatch
  else if s.cfg.pktCapacity - headerSize < s.pktLength.toNat then some .lengthTooLarge
  else if s.payloadCrc.setWidth 32 ≠ s.pktCrcField then some .crcMismatch
  else none

/-- `PARSE expected_type` (R133, R134): the result registers hold the outcome, and `crc` is not touched (R21). -/
def execParse (expectedType : Word) (s : State) : Host.Outcome State Fault Refusal :=
  .next <|
    match s.packetFailure expectedType with
    | some r => s.raiseFail r
    | none => (s.setPktResult .valid s.pktLength expectedType).respondOkay s.pktLength

end Sys2Proof.Machine
end

