-- ==== Sys2Proof/Machine/System.lean ====
section
/-! DEFINITION. The observation and reset commands `RDREG`, `MRD`, `SRST` (spec/43_system_ops.md R180 to R182). -/

namespace Sys2Proof.Machine

/-- `RDREG id` (R180): reading changes nothing. -/
def execRdreg (id : Byte) (s : State) : Host.Outcome State Fault Refusal :=
  .next <|
    match RegName.ofId? id with
    | some r => s.respondOkay (s.readReg r)
    | none => s.raiseFail .badAddress

/-- `MRD space, off` (R181): the space check before the offset check, both `BadAddress` (R218). -/
def execMrd (space : Byte) (off : Word) (s : State) : Host.Outcome State Fault Refusal :=
  .next <|
    match Space.ofId? space with
    | some sp =>
      if s.spaceSize sp ≤ off.toNat then s.raiseFail .badAddress
      else s.respondOkay ((s.read sp off.toNat).setWidth 32)
    | none => s.raiseFail .badAddress

/-- `SRST` (R182): every register to its reset value, every memory byte kept. -/
def execSrst (s : State) : Host.Outcome State Fault Refusal :=
  .next (s.resetRegisters.respondOkay 0#32)

end Sys2Proof.Machine
end

