-- ==== Sys2Proof/Machine/Dispatch.lean ====
section
/-! DEFINITION. One arm per command (spec/30_encoding.md R91): each calls its meaning. -/

namespace Sys2Proof.Machine

def exec (i : Instr) (s : State) : Host.Outcome State Fault Refusal :=
  match i with
  | .crcseed seed => Sys2Proof.Machine.execCrcseed seed s
  | .crcbyte byte => Sys2Proof.Machine.execCrcbyte byte s
  | .pbw off byte => Sys2Proof.Machine.execPbw off byte s
  | .parse expectedType => Sys2Proof.Machine.execParse expectedType s
  | .dlann size => Sys2Proof.Machine.execDlann size s
  | .dlchk data => Sys2Proof.Machine.execDlchk data s
  | .dlend => Sys2Proof.Machine.execDlend s
  | .ulann size => Sys2Proof.Machine.execUlann size s
  | .ulchk len => Sys2Proof.Machine.execUlchk len s
  | .ulend => Sys2Proof.Machine.execUlend s
  | .rdreg id => Sys2Proof.Machine.execRdreg id s
  | .mrd space off => Sys2Proof.Machine.execMrd space off s
  | .srst => Sys2Proof.Machine.execSrst s

end Sys2Proof.Machine
end

