-- ==== Sys2Proof/Machine/Fetch.lean ====
section
/-! DEFINITION. What the block does next: the reset input first, else what stands on the command port
(spec/30_encoding.md R102; spec/70_reset_and_hazards.md R240, R243, R244, R256). -/

namespace Sys2Proof.Machine

/-- The next event of the block. -/
inductive Event where
  /-- The reset input was asserted between commands (R240). -/
  | hardwareReset
  /-- The reset input was asserted with part of a command on the port (R244, U9). -/
  | resetMidCommand
  /-- A whole command, and what follows it on the port. -/
  | command (i : Instr) (rest : List Byte)
  /-- An illegal word, and what follows it on the port (R92). -/
  | illegal (rest : List Byte)
  /-- Nothing on the port (R243). -/
  | portEmpty
  /-- Part of a command on the port (R102). -/
  | commandIncomplete
deriving DecidableEq, Repr

/-- The event the state is at. While the reset input is asserted the block accepts no command (R240). A port whose front is
part of a command is the case R244 leaves out. DESIGN CHOICE, log entry 6: the front of the port alone decides; with a whole
command or an illegal word there the block resets, and the port keeps all its bytes, also where part of another command (a
`DLCHK` whose data has not all come) stands behind it. -/
def State.nextEvent (s : State) : Event :=
  match decode s.cmdPort with
  | .command i rest => if s.resetPin then .hardwareReset else .command i rest
  | .illegal _ rest => if s.resetPin then .hardwareReset else .illegal rest
  | .waiting =>
    if s.cmdPort.isEmpty then (if s.resetPin then .hardwareReset else .portEmpty)
    else if s.resetPin then .resetMidCommand
    else .commandIncomplete

/-- What the block answers to an illegal word, in every phase: `FAIL(IllegalCommand)`, nothing changes (R92). -/
def State.answerIllegal (s : State) : State :=
  s.raiseFail .illegalCommand

end Sys2Proof.Machine
end

