-- ==== Sys2Proof/Machine/Step.lean ====
section
/-! DEFINITION. One step of the block: one command to its end (spec/00_scope.md R11), one illegal word, or one hardware
reset; and how a word of the opcode table is put where the next step takes it. -/

namespace Sys2Proof.Machine

/-- One step. The command is taken from the port and run; there is nothing else to advance (R32). -/
def step (s : State) : Host.Outcome State Fault Refusal :=
  match s.nextEvent with
  | .command i rest => exec i (s.takeCommand rest)
  | .illegal rest => .next (s.takeCommand rest).answerIllegal
  | .hardwareReset => .next s.hardwareReset
  | .resetMidCommand => .refused .resetMidCommand
  | .portEmpty => .fault .portEmpty
  | .commandIncomplete => .fault .commandIncomplete

/-- The state with one more instruction, its low `nbits` bits those of `w` and the others zero, at the front of the command
port, and the reset input released: the next step takes exactly it (log entry 3). -/
def State.withFetchWord (s : State) (nbits w : Nat) : State :=
  { s with cmdPort := tableBytes nbits w ++ s.cmdPort, resetPin := false }

end Sys2Proof.Machine
end

