-- ==== Sys2Proof/Machine/Assembler.lean ====
section
/-! DEFINITION. The spec's assembler, which stands on the host's side of the command port: the one-line syntax
(spec/30_encoding.md R97), the pseudo-instructions (R98) and the text commands `download:<hex-size>` (R99) and
`oem ramdump:<hex-size>` (R100). The examples of R97 fix the spelling; spaces around operands are log entry 11. -/

namespace Sys2Proof.Machine

/-! ## Pseudo-instructions (R98) -/

/-- `CRC16 seed, [b0, ...]`. -/
def pseudoCrc16 (seed : Half) (data : List Byte) : List Instr :=
  .crcseed seed :: data.map .crcbyte

/-- `PBW` of consecutive bytes from an offset. R98 leaves open what stands for an offset of 2^32 or more, which no `PBW` can
carry: this list takes it modulo 2^32 (DESIGN CHOICE, log entry 11), and the assembler refuses a line that would need it
(`loadLine?`). -/
def loadFrom : Nat → List Byte → List Instr
  | _, [] => []
  | off, b :: bs => .pbw (BitVec.ofNat 32 off) b :: loadFrom (off + 1) bs

/-- `LOADPKT [b0, ...]`. -/
def pseudoLoadPkt (bytes : List Byte) : List Instr :=
  loadFrom 0 bytes

/-- `LOADPKT` as the assembler takes it: more than 2^32 bytes, whose offsets no `PBW` can carry, are refused. R98 does not
say what the assembler does there (DESIGN CHOICE, log entry 11). -/
def loadLine? (bytes : List Byte) : Option (List Instr) :=
  if bytes.length ≤ 2 ^ 32 then some (pseudoLoadPkt bytes) else none

/-- The bytes of a valid packet: the 16-byte header and the payload (R86, R130). A payload of 2^32 bytes or more does not fit
the `length` field, which then holds its low 32 bits (DESIGN CHOICE, log entry 11); the assembler refuses such a line. -/
def packetBytes (type : Word) (payload : List Byte) : List Byte :=
  leBytes 4 magic.toNat ++ leBytes 4 type.toNat ++ leBytes 4 payload.length ++
    leBytes 4 (crc16 pktSeed payload).toNat ++ payload

/-- `MKPKT type, [p0, ...]`. -/
def pseudoMkPkt (type : Word) (payload : List Byte) : List Instr :=
  pseudoLoadPkt (packetBytes type payload)

/-! ## Text commands (R99, R100) -/

/-- The value of a hexadecimal digit, in either letter case. -/
def hexValue? (c : Char) : Option Nat :=
  if 48 ≤ c.toNat ∧ c.toNat ≤ 57 then some (c.toNat - 48)
  else if 97 ≤ c.toNat ∧ c.toNat ≤ 102 then some (c.toNat - 87)
  else if 65 ≤ c.toNat ∧ c.toNat ≤ 70 then some (c.toNat - 55)
  else none

/-- The value of a decimal digit. -/
def decValue? (c : Char) : Option Nat :=
  if 48 ≤ c.toNat ∧ c.toNat ≤ 57 then some (c.toNat - 48) else none

/-- Digits, most significant first, after the value `acc`. -/
def digits? (base : Nat) (digit? : Char → Option Nat) : Nat → List Char → Option Nat
  | acc, [] => some acc
  | acc, c :: cs =>
    match digit? c with
    | some d => digits? base digit? (acc * base + d) cs
    | none => none

/-- `<hex-size>`: 1 to 8 hexadecimal digits and nothing else (R99). -/
def hexSize? (cs : List Char) : Option Word :=
  if 1 ≤ cs.length ∧ cs.length ≤ 8 then (digits? 16 hexValue? 0 cs).map (BitVec.ofNat 32) else none

/-- What follows a prefix. -/
def stripPrefix? : List Char → List Char → Option (List Char)
  | [], cs => some cs
  | _ :: _, [] => none
  | p :: ps, c :: cs => if p = c then stripPrefix? ps cs else none

/-- `download:<hex-size>` is `DLANN size` (R99), `oem ramdump:<hex-size>` is `ULANN size` (R100); any other text is no
command of the block (R101): `oem ramdump` without a size has no expansion. -/
def textCommand? (cs : List Char) : Option Instr :=
  match stripPrefix? ['d', 'o', 'w', 'n', 'l', 'o', 'a', 'd', ':'] cs with
  | some size => (hexSize? size).map .dlann
  | none =>
    match stripPrefix? ['o', 'e', 'm', ' ', 'r', 'a', 'm', 'd', 'u', 'm', 'p', ':'] cs with
    | some size => (hexSize? size).map .ulann
    | none => none

/-! ## One line (R97) -/

/-- A blank between the parts of a line (log entry 11). -/
def isBlank (c : Char) : Bool := c == ' ' || c == '\t'

/-- Without the blanks at its two ends. -/
def trim (cs : List Char) : List Char :=
  ((cs.dropWhile isBlank).reverse.dropWhile isBlank).reverse

/-- The line up to a `;` that stands outside a quoted string (R97); the flag says whether a string is open. -/
def withoutComment : Bool → List Char → List Char
  | _, [] => []
  | quoted, c :: cs =>
    if c = ';' ∧ quoted = false then []
    else c :: withoutComment (if c = '"' then !quoted else quoted) cs

/-- The operands of a line, cut at every comma. -/
def splitCommas : List Char → List (List Char)
  | [] => [[]]
  | c :: cs =>
    match splitCommas cs with
    | [] => [[]]
    | p :: ps => if c = ',' then [] :: p :: ps else (c :: p) :: ps

/-- A number: decimal, or hexadecimal with `0x` (R97). -/
def number? (cs : List Char) : Option Nat :=
  match stripPrefix? ['0', 'x'] cs with
  | some [] => none
  | some (d :: ds) => digits? 16 hexValue? 0 (d :: ds)
  | none =>
    match cs with
    | [] => none
    | d :: ds => digits? 10 decValue? 0 (d :: ds)

/-- A number that fits an operand of `n` bits. -/
def operand? (n : Nat) (cs : List Char) : Option (BitVec n) :=
  match number? (trim cs) with
  | some v => if v < 2 ^ n then some (BitVec.ofNat n v) else none
  | none => none

/-- The bytes of an ASCII string up to its closing quote, which ends the operand. -/
def quotedBytes? : List Char → Option (List Byte)
  | [] => none
  | c :: cs =>
    if c = '"' then (if cs = [] then some [] else none)
    else if c.toNat < 128 then (quotedBytes? cs).map (BitVec.ofNat 8 c.toNat :: ·)
    else none

/-- A byte-sequence operand: a list in brackets or a quoted ASCII string (R97). -/
def byteSequence? (cs : List Char) : Option (List Byte) :=
  match trim cs with
  | '"' :: rest => quotedBytes? rest
  | '[' :: rest =>
    match rest.reverse with
    | ']' :: inner =>
      if trim inner.reverse = [] then some [] else (splitCommas inner.reverse).mapM (operand? 8)
    | _ => none
  | _ => none

/-- A number and a byte sequence, the operands of `CRC16` and `MKPKT` (R98). -/
def numberAndBytes? (n : Nat) (cs : List Char) : Option (BitVec n × List Byte) :=
  match cs.dropWhile (· != ',') with
  | [] => none
  | _ :: rest =>
    match operand? n (cs.takeWhile (· != ',')), byteSequence? rest with
    | some v, some bytes => some (v, bytes)
    | _, _ => none

/-- The spelling of a command's mnemonic (R91). -/
def mnemonicText : Opcode → List Char
  | .crcseed => ['C', 'R', 'C', 'S', 'E', 'E', 'D']
  | .crcbyte => ['C', 'R', 'C', 'B', 'Y', 'T', 'E']
  | .pbw => ['P', 'B', 'W']
  | .parse => ['P', 'A', 'R', 'S', 'E']
  | .dlann => ['D', 'L', 'A', 'N', 'N']
  | .dlchk => ['D', 'L', 'C', 'H', 'K']
  | .dlend => ['D', 'L', 'E', 'N', 'D']
  | .ulann => ['U', 'L', 'A', 'N', 'N']
  | .ulchk => ['U', 'L', 'C', 'H', 'K']
  | .ulend => ['U', 'L', 'E', 'N', 'D']
  | .rdreg => ['R', 'D', 'R', 'E', 'G']
  | .mrd => ['M', 'R', 'D']
  | .srst => ['S', 'R', 'S', 'T']

/-- The command of a row with the operands of a line, in the order R97 shows (`PBW off, byte`; `MRD space, off`). -/
def assembleRow? (o : Opcode) (operands : List Char) : Option Instr :=
  match o, splitCommas operands with
  | .crcseed, [x] => (operand? 16 x).map .crcseed
  | .crcbyte, [x] => (operand? 8 x).map .crcbyte
  | .pbw, [x, y] => do some (.pbw (← operand? 32 x) (← operand? 8 y))
  | .parse, [x] => (operand? 32 x).map .parse
  | .dlann, [x] => (operand? 32 x).map .dlann
  | .dlchk, _ => do
    let data ← byteSequence? operands
    if data.length < 2 ^ 32 then some (.dlchk data) else none
  | .dlend, [x] => if trim x = [] then some .dlend else none
  | .ulann, [x] => (operand? 32 x).map .ulann
  | .ulchk, [x] => (operand? 32 x).map .ulchk
  | .ulend, [x] => if trim x = [] then some .ulend else none
  | .rdreg, [x] => (operand? 8 x).map .rdreg
  | .mrd, [x, y] => do some (.mrd (← operand? 8 x) (← operand? 32 y))
  | .srst, [x] => if trim x = [] then some .srst else none
  | _, _ => none

/-- One line of assembler text: the commands it stands for, none of them for a blank or comment line; refused (`none`) if
it is no line of R97 to R100. -/
def assembleLine? (line : List Char) : Option (List Instr) :=
  let text := trim (withoutComment false line)
  let word := text.takeWhile (!isBlank ·)
  let operands := text.dropWhile (!isBlank ·)
  if text = [] then some []
  else
    match Opcode.all.find? fun o => mnemonicText o == word with
    | some o => (assembleRow? o operands).map ([·])
    | none =>
      if word = ['C', 'R', 'C', '1', '6'] then (numberAndBytes? 16 operands).map fun p => pseudoCrc16 p.1 p.2
      else if word = ['L', 'O', 'A', 'D', 'P', 'K', 'T'] then (byteSequence? operands).bind loadLine?
      else if word = ['M', 'K', 'P', 'K', 'T'] then
        (numberAndBytes? 32 operands).bind fun p => loadLine? (packetBytes p.1 p.2)
      else (textCommand? text).map ([·])

/-- A program, one command per line (R97). -/
def assemble? (lines : List (List Char)) : Option (List Instr) :=
  (lines.mapM assembleLine?).map List.flatten

end Sys2Proof.Machine
end

