-- ==== Sys2Proof/Machine/Response.lean ====
section
/-! DEFINITION. How a response leaves the block: the 64-bit word (spec/30_encoding.md R84), the bytes on the response port
(R84, R96) and the textual form (R85). -/

namespace Sys2Proof.Machine

/-- `kind = r[63:56]` (R84). -/
def Response.kind : Response → BitVec 8
  | .okay _ _ _ => 0x01#8
  | .fail _ => 0x02#8
  | .size _ => 0x03#8

/-- `reason = r[55:48]`: 0 unless the kind is `FAIL` (R84). -/
def Response.reasonCode : Response → BitVec 8
  | .okay _ _ _ => 0x00#8
  | .fail r => r.code
  | .size _ => 0x00#8

/-- `flags = r[47:32]`: bit 0 is the progress flag, the others are always 0 (R84). -/
def Response.flags : Response → BitVec 16
  | .okay _ progress _ => if progress then 1#16 else 0#16
  | .fail _ => 0#16
  | .size _ => 0#16

/-- `value = r[31:0]`: 0 in every `FAIL` response (R84). -/
def Response.value : Response → Word
  | .okay v _ _ => v
  | .fail _ => 0#32
  | .size v => v

/-- The data bytes that follow the word: of an accepted `ULCHK` only (R96). -/
def Response.dataPhase : Response → List Byte
  | .okay _ _ data => data
  | .fail _ => []
  | .size _ => []

/-- The response word (R84). -/
def Response.word (r : Response) : Frame :=
  r.kind.setWidth 64 <<< 56 ||| r.reasonCode.setWidth 64 <<< 48 ||| r.flags.setWidth 64 <<< 32 ||| r.value.setWidth 64

/-- The bytes on the response port: the word, least significant byte first, then the data (R84, R96). -/
def Response.bytes (r : Response) : List Byte :=
  leBytes 8 r.word.toNat ++ r.dataPhase

/-- The lower-case hexadecimal digit of a number below 16. -/
def hexDigit (n : Nat) : Char :=
  if n < 10 then Char.ofNat (48 + n) else Char.ofNat (87 + n)

/-- The `n` low hexadecimal digits of `v`, most significant first. -/
def hexDigits : Nat → Nat → List Char
  | 0, _ => []
  | n + 1, v => hexDigit (v / 16 ^ n % 16) :: hexDigits n v

/-- `hex8(v)`: eight lower-case hexadecimal digits, most significant first, zero padded (R15, R85). -/
def hex8 (v : Word) : List Char :=
  hexDigits 8 v.toNat

/-- The characters of an ASCII string. -/
def asciiChars (cs : List (Fin 128)) : List Char :=
  cs.map fun c => Char.ofNat c.val

/-- The textual form (R85), ASCII throughout: the value of an `OKAY` and the progress flag do not appear in it. -/
def Response.text : Response → List Char
  | .okay _ _ _ => ['O', 'K', 'A', 'Y']
  | .fail r => ['F', 'A', 'I', 'L'] ++ asciiChars (Config.reasonText r.code)
  | .size v => ['D', 'A', 'T', 'A'] ++ hex8 v

/-- Everything on the response port, as bytes. -/
def State.rspBytes (s : State) : List Byte :=
  s.rspPort.flatMap Response.bytes

end Sys2Proof.Machine
end

