-- ==== Sys2Proof/Machine/Run.lean ====
section
/-! DEFINITION. A run of commands: "a run is a fold of `step` over a finite command list" (spec/00_scope.md R11). -/

namespace Sys2Proof.Machine

/-- The commands of a list, one after the other, each to its end; the first stop, if there is one, ends the run. -/
def runCommands : List Instr → State → Host.Outcome State Fault Refusal
  | [], s => .next s
  | i :: is, s =>
    match exec i s with
    | .next t => runCommands is t
    | .fault f => .fault f
    | .refused r => .refused r

end Sys2Proof.Machine
end

