-- ==== Sys2Proof/Safety.lean ====
section
/-! DEFINITION. What a state of a run satisfies: the invariants the spec states (spec/10_state.md R25, R42), the canonical
form and the bounds of the memories (spec/20_memory.md R57), the constraints of the parameters (spec/00_scope.md R9). -/

namespace Sys2Proof.Machine

/-- Every memory is in canonical form and lists no address outside itself (R37, R57). -/
abbrev State.MemoryInv (s : State) : Prop :=
  ∀ sp, (s.memory sp).wf ∧ ∀ c ∈ s.memory sp, c.1 < s.spaceSize sp

/-- The invariant of unit FRM (R25). -/
abbrev State.FramerInv (s : State) : Prop :=
  (s.pktStatus = .valid →
    s.pktHeader = magic ∧ s.pktTypeField = s.pktType ∧ s.pktLength = s.pktLen ∧
      s.pktLen.toNat ≤ s.cfg.pktCapacity - headerSize ∧
      s.pktCrcField = (crc16 0#16 (s.readBytes .pkt 16 s.pktLen.toNat)).setWidth 32) ∧
    (s.pktStatus ≠ .valid → s.pktLen = 0#32 ∧ s.pktType = 0#32)

/-- The counter of the transfer's direction (R26). -/
def State.transferCount (s : State) : Word :=
  match s.fbDir with
  | .download => s.bytesReceived
  | .upload => s.bytesSent

/-- The invariants of unit FBT (R42 (a) to (f); (g) is the type of `fbPhase`). -/
structure State.TransferInv (s : State) : Prop where
  /-- (a) -/
  received_le : s.bytesReceived.toNat ≤ s.bytesExpected.toNat
  /-- (a) -/
  sent_le : s.bytesSent.toNat ≤ s.bytesExpected.toNat
  /-- (b) -/
  download : s.fbDir = .download → s.bytesSent = 0#32 ∧ s.bytesExpected.toNat ≤ s.cfg.fbBufSize
  /-- (b) -/
  upload : s.fbDir = .upload → s.bytesReceived = 0#32 ∧ s.bytesExpected.toNat ≤ s.cfg.ulSrcSize
  /-- (c) -/
  resting : s.fbPhase = .idle ∨ s.fbPhase = .complete →
    s.bytesExpected = 0#32 ∧ s.bytesReceived = 0#32 ∧ s.bytesSent = 0#32
  /-- (d) -/
  announced : s.fbPhase = .announced → 1 ≤ s.bytesExpected.toNat ∧ s.bytesReceived = 0#32 ∧ s.bytesSent = 0#32
  /-- (e) -/
  transferring : s.fbPhase = .transferring → 1 ≤ s.bytesExpected.toNat ∧ 1 ≤ s.transferCount.toNat
  /-- (f) -/
  image_le : s.imageSize.toNat ≤ s.cfg.fbBufSize

/-- All of it: what holds right after reset and after every step. -/
structure State.Inv (s : State) : Prop where
  params : s.cfg.Valid
  memory : s.MemoryInv
  framer : s.FramerInv
  transfer : s.TransferInv

/-- The ten registers as one value, in the order of R20, for the statements that say which of them change. -/
structure Registers where
  crc : Half
  pktStatus : PktStatus
  pktLen : Word
  pktType : Word
  fbPhase : Phase
  fbDir : Dir
  bytesExpected : Word
  bytesReceived : Word
  bytesSent : Word
  imageSize : Word
deriving DecidableEq, Repr

/-- The ten registers of a state (R20). -/
def State.registers (s : State) : Registers :=
  { crc := s.crc, pktStatus := s.pktStatus, pktLen := s.pktLen, pktType := s.pktType, fbPhase := s.fbPhase, fbDir := s.fbDir
    bytesExpected := s.bytesExpected, bytesReceived := s.bytesReceived, bytesSent := s.bytesSent, imageSize := s.imageSize }

/-- Every byte of every memory reads in `t` as it did in `s`. -/
abbrev SameMemory (s t : State) : Prop :=
  ∀ sp a, t.read sp a = s.read sp a

/-- The parameters, the command port, the reset input and the count of hardware resets are those of `s`: what no command
touches. -/
abbrev SameSurroundings (s t : State) : Prop :=
  t.cfg = s.cfg ∧ t.cmdPort = s.cmdPort ∧ t.resetPin = s.resetPin ∧ t.epoch = s.epoch

/-- From `s` to `t` exactly one response was given, and it is `r` (R11). -/
abbrev Responds (s t : State) (r : Response) : Prop :=
  t.rspPort = s.rspPort ++ [r]

end Sys2Proof.Machine
end

