-- ==== Sys2Proof/Certificates/Slice0/Obligations.lean ====
section
/-! DEFINITION. What the model is asked to satisfy: the rules of spec/ that say what a command or the block does. -/

open Sys2Proof Sys2Proof.Machine

/-! ## Encodings (spec/30_encoding.md) -/

/-- R81. The fields of a command word, and its bytes on the wire: least significant first, the opcode last. -/
def Obligations.CommandWordFieldsAndWireOrder : Prop :=
  (∀ op a b, (joinWord op a b).extractLsb' 56 8 = op ∧ (joinWord op a b).extractLsb' 32 24 = a ∧
      (joinWord op a b).extractLsb' 0 32 = b) ∧
    ∀ w : Frame, leBytes 8 w.toNat =
      [w.extractLsb' 0 8, w.extractLsb' 8 8, w.extractLsb' 16 8, w.extractLsb' 24 8, w.extractLsb' 32 8,
        w.extractLsb' 40 8, w.extractLsb' 48 8, w.extractLsb' 56 8]

/-- R91. A word is the command of a row exactly when `w & mask = match`, with the operands of that row; a word that matches no
row is no command. -/
def Obligations.DecodeFollowsOpcodeMap : Prop :=
  ∀ w : Frame,
    (w &&& 0xFFFFFFFFFFFF0000#64 = 0x1000000000000000#64 → decodeWord w = .ok (.whole (.crcseed (w.extractLsb' 0 16)))) ∧
    (w &&& 0xFFFFFFFFFFFFFF00#64 = 0x1100000000000000#64 → decodeWord w = .ok (.whole (.crcbyte (w.extractLsb' 0 8)))) ∧
    (w &&& 0xFFFFFF0000000000#64 = 0x2000000000000000#64 →
      decodeWord w = .ok (.whole (.pbw (w.extractLsb' 0 32) (w.extractLsb' 32 8)))) ∧
    (w &&& 0xFFFFFFFF00000000#64 = 0x2100000000000000#64 → decodeWord w = .ok (.whole (.parse (w.extractLsb' 0 32)))) ∧
    (w &&& 0xFFFFFFFF00000000#64 = 0x3000000000000000#64 → decodeWord w = .ok (.whole (.dlann (w.extractLsb' 0 32)))) ∧
    (w &&& 0xFFFFFFFF00000000#64 = 0x3100000000000000#64 → decodeWord w = .ok (.withData (w.extractLsb' 0 32))) ∧
    (w &&& 0xFFFFFFFFFFFFFFFF#64 = 0x3200000000000000#64 → decodeWord w = .ok (.whole .dlend)) ∧
    (w &&& 0xFFFFFFFF00000000#64 = 0x3800000000000000#64 → decodeWord w = .ok (.whole (.ulann (w.extractLsb' 0 32)))) ∧
    (w &&& 0xFFFFFFFF00000000#64 = 0x3900000000000000#64 → decodeWord w = .ok (.whole (.ulchk (w.extractLsb' 0 32)))) ∧
    (w &&& 0xFFFFFFFFFFFFFFFF#64 = 0x3A00000000000000#64 → decodeWord w = .ok (.whole .ulend)) ∧
    (w &&& 0xFFFFFF00FFFFFFFF#64 = 0x4000000000000000#64 → decodeWord w = .ok (.whole (.rdreg (w.extractLsb' 32 8)))) ∧
    (w &&& 0xFFFFFF0000000000#64 = 0x4100000000000000#64 →
      decodeWord w = .ok (.whole (.mrd (w.extractLsb' 32 8) (w.extractLsb' 0 32)))) ∧
    (w &&& 0xFFFFFFFFFFFFFFFF#64 = 0x7F00000000000000#64 → decodeWord w = .ok (.whole .srst)) ∧
    ((∀ o : Opcode, w &&& o.maskBits ≠ o.matchBits) → ∃ why, decodeWord w = .error why)

/-- R91, R95, R102. Decoding an encoded well-formed command gives it back, with every operand at every value, and leaves the
rest of the stream. -/
def Obligations.DecodeOfEncode : Prop :=
  ∀ (i : Instr) (rest : List Byte), i.WellFormed → decode (encode i ++ rest) = .command i rest

/-- R91, R95, R102. The other direction: what decodes to a command is that command's one encoding and the rest. -/
def Obligations.EncodeOfDecode : Prop :=
  ∀ (bs : List Byte) (i : Instr) (rest : List Byte), decode bs = .command i rest → i.WellFormed ∧ bs = encode i ++ rest

/-- V-ENC of spec/95_test_vectors.md and the examples of the command rules: one word of each row, written out from R82, is
the command it stands for, and words with a reserved bit set are none. -/
def Obligations.DecodesWordsOfTheSpec : Prop :=
  decodeTableWord 64 0x100000000000FFFF = some (.crcseed 0xFFFF#16) ∧
    decodeTableWord 64 0x1100000000000041 = some (.crcbyte 0x41#8) ∧
    decodeTableWord 64 0x20000041FFFFFFFF = some (.pbw 0xFFFFFFFF#32 0x41#8) ∧
    decodeTableWord 64 0x2100000000000003 = some (.parse 3#32) ∧
    decodeTableWord 64 0x3000000000000400 = some (.dlann 1024#32) ∧
    decode ([0x03, 0, 0, 0, 0, 0, 0, 0x31, 0x46, 0x47, 0x48, 0x00]) = .command (.dlchk [0x46#8, 0x47#8, 0x48#8]) [0x00#8] ∧
    decodeTableWord 64 0x3200000000000000 = some .dlend ∧
    decodeTableWord 64 0x3800000000000006 = some (.ulann 6#32) ∧
    decodeTableWord 64 0x3900000000000004 = some (.ulchk 4#32) ∧
    decodeTableWord 64 0x3A00000000000000 = some .ulend ∧
    decodeTableWord 64 0x4000001300000000 = some (.rdreg 0x13#8) ∧
    decodeTableWord 64 0x4100000100000007 = some (.mrd 1#8 7#32) ∧
    decodeTableWord 64 0x7F00000000000000 = some .srst ∧
    decodeTableWord 64 0x1000000000010000 = none ∧ decodeTableWord 64 0x3100000100000002 = none

/-- R92. A word that matches no row is answered with `FAIL(IllegalCommand)` and changes nothing; only its own eight bytes
are taken, whatever its opcode. Words with an unassigned opcode, and words with an assigned opcode and a must-be-zero bit
set, are such words; so are the all-zero and the all-ones word. -/
def Obligations.IllegalWordIsAnsweredAndChangesNothing : Prop :=
  (∀ (s : State) (w : Frame) (rest : List Byte), s.resetPin = false → s.cmdPort = leBytes 8 w.toNat ++ rest →
      (∀ o : Opcode, w &&& o.maskBits ≠ o.matchBits) →
      step s = .next { s with cmdPort := rest, rspPort := s.rspPort ++ [.fail .illegalCommand] }) ∧
    (∀ w : Frame, (∀ o : Opcode, wordOp w ≠ o.code) → ∀ o : Opcode, w &&& o.maskBits ≠ o.matchBits) ∧
    (∀ (w : Frame) (o : Opcode), wordOp w = o.code → w &&& (o.maskBits &&& 0x00FFFFFFFFFFFFFF#64) ≠ 0#64 →
      ∀ p : Opcode, w &&& p.maskBits ≠ p.matchBits) ∧
    (∀ o : Opcode, 0#64 &&& o.maskBits ≠ o.matchBits) ∧
    ∀ o : Opcode, 0xFFFFFFFFFFFFFFFF#64 &&& o.maskBits ≠ o.matchBits

/-- R11, R32. A step runs the command that stands decoded at the front of the command port, with the command taken from the
port, and does nothing else. -/
def Obligations.StepRunsDecodedCommand : Prop :=
  ∀ (s : State) (i : Instr) (rest : List Byte), s.resetPin = false → decode s.cmdPort = .command i rest →
    step s = exec i { s with cmdPort := rest }

/-- R95. A command takes 8 bytes from the port, a `DLCHK` 8 + `len`, and the stream stays in step whether the command is
accepted or rejected. -/
def Obligations.CommandsAreTakenWhole : Prop :=
  ∀ (s : State) (i : Instr) (rest : List Byte), i.WellFormed → s.resetPin = false → s.cmdPort = encode i ++ rest →
    (encode i).length = (match i with | .dlchk data => 8 + data.length | _ => 8) ∧
      ∃ t, step s = .next t ∧ t.cmdPort = rest

/-- R102 (its waiting part), R243, R256. An empty port holds no command, nor does any stream that ends inside a word, whatever
the word would have been, or inside a data phase: the step stops and names the wait, `portEmpty` for the empty port and
`commandIncomplete` for the others (the two names are the model's form of U4, log entry 5). -/
def Obligations.IncompleteCommandWaits : Prop :=
  ∀ s : State, s.resetPin = false →
    (s.cmdPort = [] → step s = .fault .portEmpty) ∧
    (0 < s.cmdPort.length → s.cmdPort.length < 8 → step s = .fault .commandIncomplete) ∧
    (∀ (len : Word) (data : List Byte), data.length < len.toNat →
      s.cmdPort = leBytes 8 (joinWord 0x31#8 0#24 len).toNat ++ data → step s = .fault .commandIncomplete) ∧
    (∀ (i : Instr) (n : Nat), i.WellFormed → 0 < n → n < (encode i).length → s.cmdPort = (encode i).take n →
      step s = .fault .commandIncomplete) ∧
    (s.cmdPort ≠ [] → decode s.cmdPort = .waiting → step s = .fault .commandIncomplete)

/-- R84, R96. The fields of the response word and its bytes on the response port, with the data after the word; the progress
flag stands only in the response to an accepted `DLCHK` or `ULCHK`; exactly the `len` bytes `SRC[s ..)`, `s` the value of
`bytes_sent` before the command, follow the word of an accepted `ULCHK`, and no byte follows the word of any other response. -/
def Obligations.ResponseWordFields : Prop :=
  (∀ r : Response,
      r.word.extractLsb' 56 8 = (match r with | .okay _ _ _ => 0x01#8 | .fail _ => 0x02#8 | .size _ => 0x03#8) ∧
      r.word.extractLsb' 48 8 = (match r with | .fail reason => reason.code | _ => 0x00#8) ∧
      r.word.getLsbD 32 = (match r with | .okay _ progress _ => progress | _ => false) ∧
      r.word.extractLsb' 33 15 = 0#15 ∧
      r.word.extractLsb' 0 32 = (match r with | .okay v _ _ => v | .fail _ => 0#32 | .size v => v) ∧
      r.bytes =
        [r.word.extractLsb' 0 8, r.word.extractLsb' 8 8, r.word.extractLsb' 16 8, r.word.extractLsb' 24 8,
          r.word.extractLsb' 32 8, r.word.extractLsb' 40 8, r.word.extractLsb' 48 8, r.word.extractLsb' 56 8] ++
          (match r with | .okay _ _ data => data | _ => [])) ∧
    (∀ (i : Instr) (s t : State) (v : Word) (data : List Byte), exec i s = .next t → Responds s t (.okay v true data) →
      (∃ bytes, i = .dlchk bytes) ∨ ∃ len, i = .ulchk len) ∧
    ∀ (i : Instr) (s t : State) (v : Word) (progress : Bool) (data : List Byte), exec i s = .next t →
      Responds s t (.okay v progress data) →
      data = (match i with
        | .ulchk len => (List.range len.toNat).map fun k => s.read .src (s.bytesSent.toNat + k)
        | _ => [])

/-- R85. The textual form, ASCII throughout: `OKAY`; `FAIL` and the reason's text; `DATA` and eight lower-case hexadecimal
digits, most significant first, zero padded. -/
def Obligations.ResponseTextForm : Prop :=
  (∀ v p data, (Response.okay v p data).text = ['O', 'K', 'A', 'Y']) ∧
    (∀ reason, (Response.fail reason).text =
      ['F', 'A', 'I', 'L'] ++ (Config.reasonText reason.code).map fun c => Char.ofNat c.val) ∧
    (∀ r : Response, ∀ c ∈ r.text, c.toNat < 128) ∧
    ∀ v : Word, ∃ ds : List (Fin 16), ds.length = 8 ∧ ds.foldl (fun n d => 16 * n + d.val) 0 = v.toNat ∧
      (Response.size v).text = ['D', 'A', 'T', 'A'] ++
        ds.map fun d => ['0', '1', '2', '3', '4', '5', '6', '7', '8', '9', 'a', 'b', 'c', 'd', 'e', 'f'].getD d.val ' '

/-- R99, R100. `download:<hex-size>` is `DLANN size` and `oem ramdump:<hex-size>` is `ULANN size` for 1 to 8 hexadecimal
digits of either letter case, most significant first; any other `<hex-size>` is refused, and so is `oem ramdump` alone. -/
def Obligations.TextCommandSizes : Prop :=
  (∀ ds : List (Fin 16 × Bool), 1 ≤ ds.length → ds.length ≤ 8 →
      let text := ds.map fun d =>
        (if d.2 then ['0', '1', '2', '3', '4', '5', '6', '7', '8', '9', 'A', 'B', 'C', 'D', 'E', 'F']
          else ['0', '1', '2', '3', '4', '5', '6', '7', '8', '9', 'a', 'b', 'c', 'd', 'e', 'f']).getD d.1.val ' '
      let size := BitVec.ofNat 32 (ds.foldl (fun n d => 16 * n + d.1.val) 0)
      textCommand? (['d', 'o', 'w', 'n', 'l', 'o', 'a', 'd', ':'] ++ text) = some (.dlann size) ∧
        textCommand? (['o', 'e', 'm', ' ', 'r', 'a', 'm', 'd', 'u', 'm', 'p', ':'] ++ text) = some (.ulann size)) ∧
    (∀ cs : List Char, (cs.length = 0 ∨ 8 < cs.length ∨
        ∃ c ∈ cs, c ∉ ['0', '1', '2', '3', '4', '5', '6', '7', '8', '9', 'A', 'B', 'C', 'D', 'E', 'F', 'a', 'b', 'c', 'd', 'e',
          'f']) →
      textCommand? (['d', 'o', 'w', 'n', 'l', 'o', 'a', 'd', ':'] ++ cs) = none ∧
        textCommand? (['o', 'e', 'm', ' ', 'r', 'a', 'm', 'd', 'u', 'm', 'p', ':'] ++ cs) = none) ∧
    textCommand? ['o', 'e', 'm', ' ', 'r', 'a', 'm', 'd', 'u', 'm', 'p'] = none

/-! ## Unit CRC (spec/40_crc_engine.md) -/

/-- R110. `crc_step` on numbers: the byte into the high half, then eight times a doubling modulo 65536, with `0x1021`
exclusive-ored in when bit 15 was set before the shift. -/
def Obligations.CrcStepIsEightRounds : Prop :=
  ∀ (c : Half) (b : Byte), ∃ v : Nat → Nat, v 0 = c.toNat ^^^ (b.toNat * 256) ∧
    (∀ k < 8, v (k + 1) = if 0x8000 ≤ v k then (2 * v k % 65536) ^^^ 0x1021 else 2 * v k % 65536) ∧
    (crcStep c b).toNat = v 8

/-- R113 (a), (b), derived in the spec from R110 and R111. A CRC can be taken in pieces, and with seed 0 leading zero bytes
do not show. -/
def Obligations.CrcChainsAndIgnoresLeadingZeros : Prop :=
  (∀ seed x y, crc16 seed (x ++ y) = crc16 (crc16 seed x) y) ∧
    ∀ n x, crc16 0#16 (List.replicate n 0#8 ++ x) = crc16 0#16 x ∧ crc16 0#16 (List.replicate n 0#8) = 0#16

/-- R113 (c), derived in the spec from R110 and R111. The step and the CRC of sequences of one length are linear over
exclusive or. -/
def Obligations.CrcIsLinear : Prop :=
  (∀ c1 c2 b1 b2, crcStep (c1 ^^^ c2) (b1 ^^^ b2) = crcStep c1 b1 ^^^ crcStep c2 b2) ∧
    ∀ x y : List Byte, x.length = y.length →
      crc16 0#16 (List.zipWith (· ^^^ ·) x y) = crc16 0#16 x ^^^ crc16 0#16 y

/-- R113 (d), derived in the spec from R110 and R111. Two sequences of one length that differ in exactly one byte have
different CRCs, for every seed. -/
def Obligations.CrcDetectsOneByteChange : Prop :=
  ∀ (seed : Half) (before after : List Byte) (x y : Byte), x ≠ y →
    crc16 seed (before ++ x :: after) ≠ crc16 seed (before ++ y :: after)

/-- R113 (e), derived in the spec from R110 and R111. A sequence followed by its own CRC, high byte first, has CRC 0. -/
def Obligations.CrcOfSequenceAndItsCrcIsZero : Prop :=
  ∀ x : List Byte, crc16 0#16 (x ++ [(crc16 0#16 x).extractLsb' 8 8, (crc16 0#16 x).extractLsb' 0 8]) = 0#16

/-- R114. `CRCSEED` loads the running value and changes nothing else. -/
def Obligations.CrcseedLoadsTheSeed : Prop :=
  ∀ (s : State) (seed : Half),
    exec (.crcseed seed) s = .next { s with crc := seed, rspPort := s.rspPort ++ [.okay (seed.setWidth 32) false []] }

/-- R115. `CRCBYTE` advances the running value by one byte, answers the new value and changes nothing else; the corner
cases and the example of the rule. -/
def Obligations.CrcbyteAdvancesTheCrc : Prop :=
  (∀ (s : State) (b : Byte),
      exec (.crcbyte b) s =
        .next { s with crc := crcStep s.crc b, rspPort := s.rspPort ++ [.okay ((crcStep s.crc b).setWidth 32) false []] }) ∧
    crcStep 0x0000#16 0x00#8 = 0x0000#16 ∧ crcStep 0xFFFF#16 0xFF#8 = 0xFF00#16 ∧ crcStep 0xFF00#16 0xFF#8 = 0x0000#16 ∧
    crcStep 0x8000#16 0x00#8 = 0x9188#16 ∧ crcStep 0x0001#16 0x00#8 = 0x0100#16 ∧ crcStep 0x0000#16 0x41#8 = 0x58E5#16

/-- R116, derived in the spec from R111, R114 and R115. After `CRCSEED` and `CRCBYTE`s, with commands of the other units
between them in any number, `crc` is the `CRC16` of the bytes, and `RDREG 0x00` reads it. (`SRST`, which belongs to no unit,
clears it: R182.) -/
def Obligations.CommandSequenceComputesCrc16 : Prop :=
  ∀ (s : State) (seed : Half) (is : List Instr), (∀ i ∈ is, i ≠ .srst ∧ ∀ x, i ≠ .crcseed x) →
    ∃ t u, runCommands (.crcseed seed :: is) s = .next t ∧
      t.crc = crc16 seed (is.filterMap fun i => match i with | .crcbyte b => some b | _ => none) ∧
      exec (.rdreg 0x00#8) t = .next u ∧ Responds t u (.okay (t.crc.setWidth 32) false [])

/-- R21, R116 (the latter derived in the spec). No command of another unit reads or writes `crc`: with another value in it,
the command answers the same and leaves everything else the same. (`RDREG 0x00` and `SRST` belong to no unit.) -/
def Obligations.OtherUnitsIgnoreCrc : Prop :=
  ∀ (i : Instr) (s t : State) (c : Half), i.opcode ∉ [Opcode.crcseed, .crcbyte, .srst] → i ≠ .rdreg 0x00#8 →
    exec i s = .next t → t.crc = s.crc ∧ exec i { s with crc := c } = .next { t with crc := c }

/-! ## Unit FRM (spec/41_packet_framer.md, spec/20_memory.md) -/

/-- R50. A 32-bit field of PKT is assembled little-endian from four bytes; the magic constant is the bytes `50 47 76 31`. -/
def Obligations.PacketFieldsAreLittleEndian : Prop :=
  (∀ (s : State) (off : Nat), s.le32 off =
      (s.read .pkt off).setWidth 32 ||| (s.read .pkt (off + 1)).setWidth 32 <<< 8 |||
        (s.read .pkt (off + 2)).setWidth 32 <<< 16 ||| (s.read .pkt (off + 3)).setWidth 32 <<< 24) ∧
    ∀ (s : State) (off : Nat), s.le32 off = 0x31764750#32 ↔
      s.read .pkt off = 0x50#8 ∧ s.read .pkt (off + 1) = 0x47#8 ∧ s.read .pkt (off + 2) = 0x76#8 ∧
        s.read .pkt (off + 3) = 0x31#8

/-- R132. An accepted `PBW` stores its byte and withdraws the validation; an offset outside PKT gives `BadAddress` and
changes nothing, `pkt_status` included. -/
def Obligations.PbwStoresOneByteAndWithdrawsValidation : Prop :=
  ∀ (s : State) (off : Word) (byte : Byte),
    (off.toNat < s.cfg.pktCapacity →
      ∃ t, exec (.pbw off byte) s = .next t ∧ t.read .pkt off.toNat = byte ∧
        (∀ a, a ≠ off.toNat → t.read .pkt a = s.read .pkt a) ∧ (∀ a, t.read .stg a = s.read .stg a) ∧
        (∀ a, t.read .src a = s.read .src a) ∧
        t.registers = { s.registers with pktStatus := .notValidated, pktLen := 0#32, pktType := 0#32 } ∧
        Responds s t (.okay 0#32 false []) ∧ SameSurroundings s t) ∧
    (s.cfg.pktCapacity ≤ off.toNat →
      exec (.pbw off byte) s = .next { s with rspPort := s.rspPort ++ [.fail .badAddress] })

/-- R133, R134, R137. `PARSE`: the four checks in their order, the first that fails gives the reason and is recorded with a
zero length and type; a packet that passes them is `Valid` with its length and type. Nothing else changes. -/
def Obligations.ParseChecksInOrder : Prop :=
  ∀ (s : State) (expectedType : Word),
    let field := fun off : Nat =>
      (s.read .pkt off).setWidth 32 ||| (s.read .pkt (off + 1)).setWidth 32 <<< 8 |||
        (s.read .pkt (off + 2)).setWidth 32 <<< 16 ||| (s.read .pkt (off + 3)).setWidth 32 <<< 24
    let payload := (List.range (field 8).toNat).map fun k => s.read .pkt (16 + k)
    exec (.parse expectedType) s = .next
      (if field 0 ≠ 0x31764750#32 then
        { s with pktStatus := .headerMismatch, pktLen := 0#32, pktType := 0#32
                 rspPort := s.rspPort ++ [.fail .headerMismatch] }
      else if field 4 ≠ expectedType then
        { s with pktStatus := .typeMismatch, pktLen := 0#32, pktType := 0#32
                 rspPort := s.rspPort ++ [.fail .typeMismatch] }
      else if (field 8).toNat > s.cfg.pktCapacity - 16 then
        { s with pktStatus := .lengthTooLarge, pktLen := 0#32, pktType := 0#32
                 rspPort := s.rspPort ++ [.fail .lengthTooLarge] }
      else if (crc16 0#16 payload).setWidth 32 ≠ field 12 then
        { s with pktStatus := .crcMismatch, pktLen := 0#32, pktType := 0#32
                 rspPort := s.rspPort ++ [.fail .crcMismatch] }
      else
        { s with pktStatus := .valid, pktLen := field 8, pktType := expectedType
                 rspPort := s.rspPort ++ [.okay (field 8) false []] })

/-- R135. All four bytes of the `crc` field take part: a valid packet has the CRC in bytes 12 and 13 and zero in 14 and 15;
a packet that passes the first three checks and whose low 16 bits match, but with byte 14 or 15 not zero, fails with
`CrcMismatch`. -/
def Obligations.ParseComparesAllFourCrcBytes : Prop :=
  ∀ (s : State) (ty : Word),
    let computed := crc16 0#16 (s.readBytes .pkt 16 s.pktLength.toNat)
    (∀ t, exec (.parse ty) s = .next t → t.pktStatus = .valid →
      s.read .pkt 12 = computed.extractLsb' 0 8 ∧ s.read .pkt 13 = computed.extractLsb' 8 8 ∧ s.read .pkt 14 = 0#8 ∧
        s.read .pkt 15 = 0#8) ∧
    (s.pktHeader = 0x31764750#32 → s.pktTypeField = ty → s.pktLength.toNat ≤ s.cfg.pktCapacity - 16 →
      s.read .pkt 12 = computed.extractLsb' 0 8 → s.read .pkt 13 = computed.extractLsb' 8 8 →
      s.read .pkt 14 ≠ 0#8 ∨ s.read .pkt 15 ≠ 0#8 →
      ∃ t, exec (.parse ty) s = .next t ∧ Responds s t (.fail .crcMismatch))

/-- R131. `PARSE` never reads a byte of PKT from `16 + length` up, and a packet rejected at the header, type or length check
has had none of its payload read: changing those bytes changes neither the response nor any register. -/
def Obligations.ParseReadsOnlyThePacket : Prop :=
  ∀ (s t : State) (ty : Word) (m : Memory), exec (.parse ty) s = .next t →
    (∀ a < 16, { s with pkt := m }.read .pkt a = s.read .pkt a) →
    (Responds s t (.fail .headerMismatch) ∨ Responds s t (.fail .typeMismatch) ∨ Responds s t (.fail .lengthTooLarge) ∨
      ∀ k < s.pktLength.toNat, { s with pkt := m }.read .pkt (16 + k) = s.read .pkt (16 + k)) →
    exec (.parse ty) { s with pkt := m } = .next { t with pkt := m }

/-- R56 (on `PARSE`). A second `PARSE` with the same operand, after commands among which is no accepted `PBW`, gives the same
response, leaves the three result registers as the first left them and changes nothing else; PKT reads the same throughout.
(With nothing between, the state is therefore the same but for the response.) -/
def Obligations.ParseIsIdempotent : Prop :=
  ∀ (s t : State) (ty : Word) (between : List Instr), exec (.parse ty) s = .next t →
    (∀ off byte, .pbw off byte ∈ between → s.cfg.pktCapacity ≤ off.toNat) →
    ∃ u r, runCommands between t = .next u ∧ Responds s t r ∧ (∀ a, u.read .pkt a = s.read .pkt a) ∧
      exec (.parse ty) u = .next
        { u with pktStatus := t.pktStatus, pktLen := t.pktLen, pktType := t.pktType, rspPort := u.rspPort ++ [r] }

/-- R139 (round trip). After `MKPKT t, P` with `len(P) <= PKT_CAPACITY - 16`, `PARSE t` answers `OKAY(len(P))`, and the
payload reads back. -/
def Obligations.MadePacketValidates : Prop :=
  ∀ (s : State) (ty : Word) (payload : List Byte), s.cfg.Valid → payload.length ≤ s.cfg.pktCapacity - 16 →
    ∃ t u, runCommands (pseudoMkPkt ty payload) s = .next t ∧ exec (.parse ty) t = .next u ∧
      Responds t u (.okay (BitVec.ofNat 32 payload.length) false []) ∧ u.pktStatus = .valid ∧
      u.pktLen.toNat = payload.length ∧ u.pktType = ty ∧ u.readBytes .pkt 16 payload.length = payload

/-- R139 (single-byte change). After a successful `PARSE`, changing any one byte of the payload with `PBW` makes the next
`PARSE` of that type fail with `CrcMismatch`. -/
def Obligations.PayloadByteChangeIsCaught : Prop :=
  ∀ (s t : State) (ty : Word) (k : Nat) (x : Byte), s.cfg.Valid → exec (.parse ty) s = .next t → t.pktStatus = .valid →
    k < t.pktLen.toNat → x ≠ t.read .pkt (16 + k) →
    ∃ u v, exec (.pbw (BitVec.ofNat 32 (16 + k)) x) t = .next u ∧ u.pktStatus = .notValidated ∧
      exec (.parse ty) u = .next v ∧ Responds u v (.fail .crcMismatch) ∧ v.pktStatus = .crcMismatch ∧ v.pktLen = 0#32 ∧
      v.pktType = 0#32

/-- R138, derived in the spec from R132 and R25. A validation lasts: no command but an accepted `PBW`, a `PARSE` and `SRST`
ends it or changes a byte of PKT. -/
def Obligations.ValidationLastsUntilWriteParseOrReset : Prop :=
  ∀ (i : Instr) (s t : State), exec i s = .next t → i.opcode ≠ .parse → i.opcode ≠ .srst →
    (∀ off byte, i = .pbw off byte → s.cfg.pktCapacity ≤ off.toNat) →
    t.pktStatus = s.pktStatus ∧ t.pktLen = s.pktLen ∧ t.pktType = s.pktType ∧ ∀ a, t.read .pkt a = s.read .pkt a

/-! ## Unit FBT (spec/42_fastboot_transfer.md) -/

/-- R156. `DLANN`: zero is `InvalidSize`, above `FB_BUF_SIZE` is `SizeTooLarge`, neither changes a register; any other size is
accepted in every phase and answered with `DATA(size)`. -/
def Obligations.DlannAnnouncesDownload : Prop :=
  ∀ (s : State) (size : Word),
    (size = 0#32 → exec (.dlann size) s = .next { s with rspPort := s.rspPort ++ [.fail .invalidSize] }) ∧
    (size ≠ 0#32 → size.toNat > s.cfg.fbBufSize →
      exec (.dlann size) s = .next { s with rspPort := s.rspPort ++ [.fail .sizeTooLarge] }) ∧
    (size ≠ 0#32 → size.toNat ≤ s.cfg.fbBufSize →
      exec (.dlann size) s = .next
        { s with bytesExpected := size, bytesReceived := 0#32, bytesSent := 0#32, fbDir := .download
                 fbPhase := .announced, rspPort := s.rspPort ++ [.size size] })

/-- R162. `ULANN`: the mirror of `DLANN` with the bound `UL_SRC_SIZE`. -/
def Obligations.UlannAnnouncesUpload : Prop :=
  ∀ (s : State) (size : Word),
    (size = 0#32 → exec (.ulann size) s = .next { s with rspPort := s.rspPort ++ [.fail .invalidSize] }) ∧
    (size ≠ 0#32 → size.toNat > s.cfg.ulSrcSize →
      exec (.ulann size) s = .next { s with rspPort := s.rspPort ++ [.fail .sizeTooLarge] }) ∧
    (size ≠ 0#32 → size.toNat ≤ s.cfg.ulSrcSize →
      exec (.ulann size) s = .next
        { s with bytesExpected := size, bytesReceived := 0#32, bytesSent := 0#32, fbDir := .upload
                 fbPhase := .announced, rspPort := s.rspPort ++ [.size size] })

/-- R157, R158, R161. `DLCHK`: outside a live download `BadState` and nothing changes; a length of 0 or past the announced
size (on natural numbers) aborts and writes the phase alone; any other chunk is stored at `STG[bytes_received ..)`, advances
the counter without truncation and answers it with the progress flag. -/
def Obligations.DlchkStoresOrAborts : Prop :=
  ∀ (s : State) (data : List Byte),
    (¬ ((s.fbPhase = .announced ∨ s.fbPhase = .transferring) ∧ s.fbDir = .download) →
      exec (.dlchk data) s = .next { s with rspPort := s.rspPort ++ [.fail .badState] }) ∧
    ((s.fbPhase = .announced ∨ s.fbPhase = .transferring) ∧ s.fbDir = .download →
      (data.length = 0 ∨ s.bytesReceived.toNat + data.length > s.bytesExpected.toNat →
        exec (.dlchk data) s = .next { s with fbPhase := .aborted, rspPort := s.rspPort ++ [.fail .invalidChunk] }) ∧
      (¬ (data.length = 0 ∨ s.bytesReceived.toNat + data.length > s.bytesExpected.toNat) →
        ∃ t v, exec (.dlchk data) s = .next t ∧ v.toNat = s.bytesReceived.toNat + data.length ∧
          (∀ k (h : k < data.length), t.read .stg (s.bytesReceived.toNat + k) = data[k]) ∧
          (∀ a, a < s.bytesReceived.toNat ∨ s.bytesReceived.toNat + data.length ≤ a →
            t.read .stg a = s.read .stg a) ∧
          (∀ a, t.read .pkt a = s.read .pkt a) ∧ (∀ a, t.read .src a = s.read .src a) ∧
          t.registers = { s.registers with bytesReceived := v, fbPhase := .transferring } ∧
          Responds s t (.okay v (decide (s.bytesReceived.toNat / s.cfg.progressInterval ≠
            v.toNat / s.cfg.progressInterval)) []) ∧ SameSurroundings s t))

/-- R163, R164, R165. `ULCHK`: the mirror of `DLCHK`; an accepted chunk answers the new counter followed by the bytes
`SRC[bytes_sent .. bytes_sent+len)` in order, and writes no memory; a refused one sends no data byte. -/
def Obligations.UlchkSendsOrAborts : Prop :=
  ∀ (s : State) (len : Word),
    (¬ ((s.fbPhase = .announced ∨ s.fbPhase = .transferring) ∧ s.fbDir = .upload) →
      exec (.ulchk len) s = .next { s with rspPort := s.rspPort ++ [.fail .badState] }) ∧
    ((s.fbPhase = .announced ∨ s.fbPhase = .transferring) ∧ s.fbDir = .upload →
      (len = 0#32 ∨ s.bytesSent.toNat + len.toNat > s.bytesExpected.toNat →
        exec (.ulchk len) s = .next { s with fbPhase := .aborted, rspPort := s.rspPort ++ [.fail .invalidChunk] }) ∧
      (¬ (len = 0#32 ∨ s.bytesSent.toNat + len.toNat > s.bytesExpected.toNat) →
        ∃ v : Word, v.toNat = s.bytesSent.toNat + len.toNat ∧
          exec (.ulchk len) s = .next
            { s with bytesSent := v, fbPhase := .transferring
                     rspPort := s.rspPort ++
                       [.okay v (decide (s.bytesSent.toNat / s.cfg.progressInterval ≠ v.toNat / s.cfg.progressInterval))
                         ((List.range len.toNat).map fun k => s.read .src (s.bytesSent.toNat + k))] }))

/-- R159. `DLEND` publishes `image_size`, zeroes the counters and enters `Complete` whatever the counters are; outside a live
download `BadState` and nothing changes. -/
def Obligations.DlendPublishesImageSize : Prop :=
  ∀ s : State,
    (¬ ((s.fbPhase = .announced ∨ s.fbPhase = .transferring) ∧ s.fbDir = .download) →
      exec .dlend s = .next { s with rspPort := s.rspPort ++ [.fail .badState] }) ∧
    ((s.fbPhase = .announced ∨ s.fbPhase = .transferring) ∧ s.fbDir = .download →
      exec .dlend s = .next
        { s with imageSize := s.bytesReceived, bytesExpected := 0#32, bytesReceived := 0#32, bytesSent := 0#32
                 fbPhase := .complete, rspPort := s.rspPort ++ [.okay s.bytesReceived false []] })

/-- R166. `ULEND` zeroes the counters, enters `Complete`, answers the bytes sent and leaves `image_size` alone. -/
def Obligations.UlendCompletesUpload : Prop :=
  ∀ s : State,
    (¬ ((s.fbPhase = .announced ∨ s.fbPhase = .transferring) ∧ s.fbDir = .upload) →
      exec .ulend s = .next { s with rspPort := s.rspPort ++ [.fail .badState] }) ∧
    ((s.fbPhase = .announced ∨ s.fbPhase = .transferring) ∧ s.fbDir = .upload →
      exec .ulend s = .next
        { s with bytesExpected := 0#32, bytesReceived := 0#32, bytesSent := 0#32, fbPhase := .complete
                 rspPort := s.rspPort ++ [.okay s.bytesSent false []] })

/-- R152. `fb_phase` changes only as the table says, for every command, by the response it got; an accepted chunk or complete
came from a live transfer of its direction; a hardware reset leads to `Idle`, an illegal word to no other phase. -/
def Obligations.PhaseTransitionTable : Prop :=
  (∀ (i : Instr) (s t : State), exec i s = .next t → ∃ r, Responds s t r ∧
    (match i, r with
      | .dlann _, .size _ => t.fbPhase = .announced
      | .ulann _, .size _ => t.fbPhase = .announced
      | .dlchk _, .okay _ _ _ =>
        (s.fbPhase = .announced ∨ s.fbPhase = .transferring) ∧ s.fbDir = .download ∧ t.fbPhase = .transferring
      | .ulchk _, .okay _ _ _ =>
        (s.fbPhase = .announced ∨ s.fbPhase = .transferring) ∧ s.fbDir = .upload ∧ t.fbPhase = .transferring
      | .dlchk _, .fail .invalidChunk =>
        (s.fbPhase = .announced ∨ s.fbPhase = .transferring) ∧ s.fbDir = .download ∧ t.fbPhase = .aborted
      | .ulchk _, .fail .invalidChunk =>
        (s.fbPhase = .announced ∨ s.fbPhase = .transferring) ∧ s.fbDir = .upload ∧ t.fbPhase = .aborted
      | .dlend, .okay _ _ _ =>
        (s.fbPhase = .announced ∨ s.fbPhase = .transferring) ∧ s.fbDir = .download ∧ t.fbPhase = .complete
      | .ulend, .okay _ _ _ =>
        (s.fbPhase = .announced ∨ s.fbPhase = .transferring) ∧ s.fbDir = .upload ∧ t.fbPhase = .complete
      | .srst, _ => t.fbPhase = .idle
      | _, _ => t.fbPhase = s.fbPhase)) ∧
    (∀ s t : State, s.resetPin = true → step s = .next t → t.fbPhase = .idle) ∧
    ∀ (s t : State) (why : IllegalWord) (rest : List Byte), s.resetPin = false → decode s.cmdPort = .illegal why rest →
      step s = .next t → t.fbPhase = s.fbPhase

/-- R153. The acceptance table: an announce is never answered with `BadState`; a chunk or complete command is, exactly outside
a live transfer of its direction, and then nothing at all changes. -/
def Obligations.AcceptanceTable : Prop :=
  ∀ (i : Instr) (s : State), ∃ t, exec i s = .next t ∧
    (Responds s t (.fail .badState) ↔
      (match i.opcode with
        | .dlchk => ¬ ((s.fbPhase = .announced ∨ s.fbPhase = .transferring) ∧ s.fbDir = .download)
        | .dlend => ¬ ((s.fbPhase = .announced ∨ s.fbPhase = .transferring) ∧ s.fbDir = .download)
        | .ulchk => ¬ ((s.fbPhase = .announced ∨ s.fbPhase = .transferring) ∧ s.fbDir = .upload)
        | .ulend => ¬ ((s.fbPhase = .announced ∨ s.fbPhase = .transferring) ∧ s.fbDir = .upload)
        | _ => False)) ∧
    (Responds s t (.fail .badState) → t = { s with rspPort := s.rspPort ++ [.fail .badState] })

/-- R155. In `Aborted`, until an announce is accepted or `SRST`, the phase, the direction, the counters, `image_size` and
every byte of STG stay as they are, and every chunk and complete command is answered with `BadState`. -/
def Obligations.AbortedTransferStaysDead : Prop :=
  ∀ (i : Instr) (s t : State), s.fbPhase = .aborted → exec i s = .next t → i ≠ .srst →
    (∀ size, ¬ Responds s t (.size size)) →
    t.fbPhase = .aborted ∧ t.fbDir = s.fbDir ∧ t.bytesExpected = s.bytesExpected ∧ t.bytesReceived = s.bytesReceived ∧
      t.bytesSent = s.bytesSent ∧ t.imageSize = s.imageSize ∧ (∀ a, t.read .stg a = s.read .stg a) ∧
      (i.opcode ∈ [Opcode.dlchk, .dlend, .ulchk, .ulend] → Responds s t (.fail .badState))

/-- R29, R30. Between an accepted announce and the next accepted announce, complete or reset, neither counter decreases. -/
def Obligations.CountersNeverDecrease : Prop :=
  ∀ (i : Instr) (s t : State), exec i s = .next t → i ≠ .srst → (∀ size, ¬ Responds s t (.size size)) →
    (i.opcode ∈ [Opcode.dlend, .ulend] → Responds s t (.fail .badState)) →
    s.bytesReceived.toNat ≤ t.bytesReceived.toNat ∧ s.bytesSent.toNat ≤ t.bytesSent.toNat

/-- R59, R160, R167 (R160 derived in the spec from R157 and R42). A download of any non-empty chunks that sum to at most the
announced size: every chunk is accepted, the counter is their sum, STG holds their bytes from offset 0 with no gap, the rest
of STG is untouched, and `DLEND` then publishes that size. -/
def Obligations.DownloadFillsStagingBuffer : Prop :=
  ∀ (s : State) (size : Word) (chunks : List (List Byte)), size ≠ 0#32 → size.toNat ≤ s.cfg.fbBufSize →
    (∀ c ∈ chunks, c ≠ []) → chunks.flatten.length ≤ size.toNat →
    ∃ t u, runCommands (.dlann size :: chunks.map .dlchk) s = .next t ∧ t.bytesExpected = size ∧
      t.bytesReceived.toNat = chunks.flatten.length ∧ t.fbDir = .download ∧
      t.fbPhase = (if chunks = [] then .announced else .transferring) ∧
      t.readBytes .stg 0 chunks.flatten.length = chunks.flatten ∧
      (∀ a, chunks.flatten.length ≤ a → t.read .stg a = s.read .stg a) ∧
      exec .dlend t = .next u ∧ u.imageSize.toNat = chunks.flatten.length ∧ u.fbPhase = .complete

/-- R60, R164 (R164 derived in the spec from R163 and R42). An upload of any non-zero lengths that sum to at most the
announced size: every chunk is accepted, and the data bytes of the responses, in order, are `SRC[0 .. sum)` with no gap and
no repeat; no memory byte and not `image_size` changes. -/
def Obligations.UploadSendsSourceInOrder : Prop :=
  ∀ (s : State) (size : Word) (lens : List Word), size ≠ 0#32 → size.toNat ≤ s.cfg.ulSrcSize →
    (∀ l ∈ lens, l ≠ 0#32) → (lens.map BitVec.toNat).sum ≤ size.toNat →
    ∃ t rs, runCommands (.ulann size :: lens.map .ulchk) s = .next t ∧ t.rspPort = s.rspPort ++ .size size :: rs ∧
      rs.length = lens.length ∧ rs.flatMap Response.dataPhase = s.readBytes .src 0 (lens.map BitVec.toNat).sum ∧
      t.bytesSent.toNat = (lens.map BitVec.toNat).sum ∧ t.bytesExpected = size ∧ t.imageSize = s.imageSize ∧
      SameMemory s t

/-! ## Observation and reset (spec/43_system_ops.md, spec/70_reset_and_hazards.md) -/

/-- R180, R34. `RDREG` answers the register its id names, zero-extended, and changes nothing; every other id is
`BadAddress`. -/
def Obligations.RdregReadsTheNamedRegister : Prop :=
  ∀ s : State,
    let answers := fun (id : Byte) (v : Word) =>
      exec (.rdreg id) s = .next { s with rspPort := s.rspPort ++ [.okay v false []] }
    answers 0x00#8 (s.crc.setWidth 32) ∧
    answers 0x01#8 (match s.pktStatus with
      | .notValidated => 0x00#32 | .headerMismatch => 0x01#32 | .typeMismatch => 0x02#32 | .lengthTooLarge => 0x03#32
      | .crcMismatch => 0x04#32 | .valid => 0x80#32) ∧
    answers 0x02#8 s.pktLen ∧ answers 0x03#8 s.pktType ∧
    answers 0x04#8 (match s.fbPhase with
      | .idle => 0#32 | .announced => 1#32 | .transferring => 2#32 | .complete => 3#32 | .aborted => 4#32) ∧
    answers 0x05#8 (match s.fbDir with | .download => 0#32 | .upload => 1#32) ∧
    answers 0x06#8 s.bytesExpected ∧ answers 0x07#8 s.bytesReceived ∧ answers 0x08#8 s.bytesSent ∧
    answers 0x09#8 s.imageSize ∧
    answers 0x10#8 (BitVec.ofNat 32 s.cfg.pktCapacity) ∧ answers 0x11#8 (BitVec.ofNat 32 s.cfg.fbBufSize) ∧
    answers 0x12#8 (BitVec.ofNat 32 s.cfg.ulSrcSize) ∧ answers 0x13#8 (BitVec.ofNat 32 s.cfg.progressInterval) ∧
    ∀ id : Byte, (0x0A ≤ id.toNat ∧ id.toNat ≤ 0x0F) ∨ 0x14 ≤ id.toNat →
      exec (.rdreg id) s = .next { s with rspPort := s.rspPort ++ [.fail .badAddress] }

/-- R181. `MRD` answers the byte, zero-extended, and changes nothing; a space above 2 or an offset outside the memory is
`BadAddress`. -/
def Obligations.MrdReadsOneByte : Prop :=
  ∀ (s : State) (space : Byte) (off : Word),
    (2 < space.toNat → exec (.mrd space off) s = .next { s with rspPort := s.rspPort ++ [.fail .badAddress] }) ∧
    ∀ (sp : Space) (size : Nat),
      (space = 0#8 ∧ sp = .pkt ∧ size = s.cfg.pktCapacity) ∨ (space = 1#8 ∧ sp = .stg ∧ size = s.cfg.fbBufSize) ∨
        (space = 2#8 ∧ sp = .src ∧ size = s.cfg.ulSrcSize) →
      (size ≤ off.toNat → exec (.mrd space off) s = .next { s with rspPort := s.rspPort ++ [.fail .badAddress] }) ∧
      (off.toNat < size → exec (.mrd space off) s = .next
        { s with rspPort := s.rspPort ++ [.okay ((s.read sp off.toNat).setWidth 32) false []] })

/-- R182. `SRST` puts the ten registers back to zero and changes nothing else; no memory byte changes. -/
def Obligations.SrstClearsRegistersKeepsMemory : Prop :=
  ∀ s : State, exec .srst s = .next
    { s with
      crc := 0#16, pktStatus := .notValidated, pktLen := 0#32, pktType := 0#32, fbPhase := .idle, fbDir := .download
      bytesExpected := 0#32, bytesReceived := 0#32, bytesSent := 0#32, imageSize := 0#32
      rspPort := s.rspPort ++ [.okay 0#32 false []] }

/-- R241. Every register is zero right after reset, and after a hardware reset of any state; the parameters are not affected;
the invariants of R25 and R42 hold in the reset state. -/
def Obligations.ResetValues : Prop :=
  let zero : Registers :=
    { crc := 0x0000#16, pktStatus := .notValidated, pktLen := 0#32, pktType := 0#32, fbPhase := .idle, fbDir := .download
      bytesExpected := 0#32, bytesReceived := 0#32, bytesSent := 0#32, imageSize := 0#32 }
  State.reset.registers = zero ∧ (∀ s : State, s.hardwareReset.registers = zero ∧ s.hardwareReset.cfg = s.cfg) ∧
    State.reset.FramerInv ∧ State.reset.TransferInv

/-- R240. The reset input between commands: no command is accepted and no response given, and after the step every register is
zero, no response is pending, SRC reads as before, and no byte of PKT or STG holds a value of its own. THE MODEL'S OWN CHOICES,
log entry 6, and no rule of the spec: that what the host has presented stays on the port (`t.cmdPort = s.cmdPort`; R240 says
only that the decoder is at a word boundary), also where part of a command stands behind a whole one, and that one step is both
assertion and release (`t.resetPin = false`). -/
def Obligations.HardwareResetBetweenCommands : Prop :=
  ∀ s : State, s.resetPin = true → (s.cmdPort = [] ∨ decode s.cmdPort ≠ .waiting) →
    ∃ t, step s = .next t ∧ t.registers = State.reset.registers ∧ t.rspPort = [] ∧ t.cmdPort = s.cmdPort ∧
      t.resetPin = false ∧ t.cfg = s.cfg ∧ (∀ a, t.read .src a = s.read .src a) ∧
      ∀ a, t.pkt.lookup a = none ∧ t.stg.lookup a = none

/-- R244 (U9). A reset asserted while the front of the port is part of a word, whatever the word would have been, or a `DLCHK`
whose data has not all come, has no meaning in the model: the step stops by name. (That the front of the port decides is the
model's choice, log entry 6.) -/
def Obligations.ResetMidCommandIsRefused : Prop :=
  ∀ s : State, s.resetPin = true →
    (0 < s.cmdPort.length → s.cmdPort.length < 8 → step s = .refused .resetMidCommand) ∧
    (∀ (len : Word) (data : List Byte), data.length < len.toNat →
      s.cmdPort = leBytes 8 (joinWord 0x31#8 0#24 len).toNat ++ data → step s = .refused .resetMidCommand) ∧
    (∀ (i : Instr) (n : Nat), i.WellFormed → 0 < n → n < (encode i).length → s.cmdPort = (encode i).take n →
      step s = .refused .resetMidCommand) ∧
    (s.cmdPort ≠ [] → decode s.cmdPort = .waiting → step s = .refused .resetMidCommand)

/-! ## The whole block -/

/-- R11, R55, R221. Every command, in every state, completes with exactly one response and touches neither the parameters nor
what the host has presented; so does every run of commands; and a step on a whole command or an illegal word never stops. -/
def Obligations.EveryCommandCompletes : Prop :=
  (∀ (i : Instr) (s : State), ∃ t r, exec i s = .next t ∧ Responds s t r ∧ SameSurroundings s t) ∧
    (∀ (is : List Instr) (s : State), ∃ t rs, runCommands is s = .next t ∧ rs.length = is.length ∧
      t.rspPort = s.rspPort ++ rs) ∧
    ∀ s : State, s.resetPin = false → decode s.cmdPort ≠ .waiting → ∃ t, step s = .next t

/-- R20 (its Writers column), R36. A register changes only by the commands listed as its writers. -/
def Obligations.RegistersHaveTheirWritersOnly : Prop :=
  ∀ (i : Instr) (s t : State), exec i s = .next t →
    (i.opcode ∉ [Opcode.crcseed, .crcbyte, .srst] → t.crc = s.crc) ∧
    (i.opcode ∉ [Opcode.parse, .pbw, .srst] → t.pktStatus = s.pktStatus ∧ t.pktLen = s.pktLen ∧ t.pktType = s.pktType) ∧
    (i.opcode ∉ [Opcode.dlann, .ulann, .dlchk, .ulchk, .dlend, .ulend, .srst] → t.fbPhase = s.fbPhase) ∧
    (i.opcode ∉ [Opcode.dlann, .ulann, .srst] → t.fbDir = s.fbDir) ∧
    (i.opcode ∉ [Opcode.dlann, .ulann, .dlend, .ulend, .srst] → t.bytesExpected = s.bytesExpected) ∧
    (i.opcode ∉ [Opcode.dlann, .ulann, .dlchk, .dlend, .ulend, .srst] → t.bytesReceived = s.bytesReceived) ∧
    (i.opcode ∉ [Opcode.dlann, .ulann, .ulchk, .dlend, .ulend, .srst] → t.bytesSent = s.bytesSent) ∧
    (i.opcode ∉ [Opcode.dlend, .srst] → t.imageSize = s.imageSize)

/-- R37 (its "written by" column), R54. PKT is written by `PBW` alone, STG by `DLCHK` alone, SRC by no command. -/
def Obligations.MemoriesHaveTheirWritersOnly : Prop :=
  ∀ (i : Instr) (s t : State), exec i s = .next t →
    (i.opcode ≠ .pbw → ∀ a, t.read .pkt a = s.read .pkt a) ∧ (i.opcode ≠ .dlchk → ∀ a, t.read .stg a = s.read .stg a) ∧
      ∀ a, t.read .src a = s.read .src a

/-- R35. The parameters are hardwired: no step, of a command or of a reset, changes them. -/
def Obligations.ParametersNeverChange : Prop :=
  ∀ s t : State, step s = .next t → t.cfg = s.cfg

/-- R211, R222. What a failure records and writes, of a command and of an illegal word: the `FAIL` word with the reason code
and nothing else; the result registers for the four reasons of `PARSE`, the phase for `InvalidChunk`, no other register, and
no byte of any memory. -/
def Obligations.FailuresArePrecise : Prop :=
  let registersAfter := fun (s : State) (reason : Reason) => (match reason with
    | .headerMismatch => { s.registers with pktStatus := .headerMismatch, pktLen := 0#32, pktType := 0#32 }
    | .typeMismatch => { s.registers with pktStatus := .typeMismatch, pktLen := 0#32, pktType := 0#32 }
    | .lengthTooLarge => { s.registers with pktStatus := .lengthTooLarge, pktLen := 0#32, pktType := 0#32 }
    | .crcMismatch => { s.registers with pktStatus := .crcMismatch, pktLen := 0#32, pktType := 0#32 }
    | .invalidChunk => { s.registers with fbPhase := .aborted }
    | _ => s.registers : Registers)
  (∀ reason : Reason, (Response.fail reason).word = 0x0200000000000000#64 ||| reason.code.setWidth 64 <<< 48) ∧
    (∀ (i : Instr) (s t : State) (reason : Reason), exec i s = .next t → Responds s t (.fail reason) →
      SameMemory s t ∧ SameSurroundings s t ∧ t.registers = registersAfter s reason) ∧
    ∀ (s t : State) (reason : Reason), s.resetPin = false → step s = .next t → Responds s t (.fail reason) →
      SameMemory s t ∧ t.cfg = s.cfg ∧ t.resetPin = s.resetPin ∧ t.registers = registersAfter s reason

/-- R212. Which command can raise which reason: it raises no other, and it can raise each. -/
def Obligations.ReasonsByCommand : Prop :=
  let allowed := fun o : Opcode => (match o with
    | .crcseed => []
    | .crcbyte => []
    | .srst => []
    | .pbw => [.badAddress]
    | .parse => [.headerMismatch, .typeMismatch, .lengthTooLarge, .crcMismatch]
    | .dlann => [.invalidSize, .sizeTooLarge]
    | .ulann => [.invalidSize, .sizeTooLarge]
    | .dlchk => [.invalidChunk, .badState]
    | .ulchk => [.invalidChunk, .badState]
    | .dlend => [.badState]
    | .ulend => [.badState]
    | .rdreg => [.badAddress]
    | .mrd => [.badAddress] : List Reason)
  (∀ (i : Instr) (s t : State) (reason : Reason), exec i s = .next t → Responds s t (.fail reason) →
      reason ∈ allowed i.opcode) ∧
    ∀ (o : Opcode), ∀ reason ∈ allowed o, ∃ (i : Instr) (s t : State), i.opcode = o ∧ i.WellFormed ∧ s.Inv ∧
      exec i s = .next t ∧ Responds s t (.fail reason)

/-- R22, R26, R27, R210. The numeric codes of the status registers and of the reasons. -/
def Obligations.CodesOfStatusPhaseAndReasons : Prop :=
  (PktStatus.notValidated.code = 0x00#8 ∧ PktStatus.headerMismatch.code = 0x01#8 ∧ PktStatus.typeMismatch.code = 0x02#8 ∧
      PktStatus.lengthTooLarge.code = 0x03#8 ∧ PktStatus.crcMismatch.code = 0x04#8 ∧ PktStatus.valid.code = 0x80#8) ∧
    (Phase.idle.code = 0#3 ∧ Phase.announced.code = 1#3 ∧ Phase.transferring.code = 2#3 ∧ Phase.complete.code = 3#3 ∧
      Phase.aborted.code = 4#3) ∧
    (Dir.download.code = 0#1 ∧ Dir.upload.code = 1#1) ∧
    (Reason.headerMismatch.code = 0x01#8 ∧ Reason.typeMismatch.code = 0x02#8 ∧ Reason.lengthTooLarge.code = 0x03#8 ∧
      Reason.crcMismatch.code = 0x04#8 ∧ Reason.invalidSize.code = 0x11#8 ∧ Reason.sizeTooLarge.code = 0x12#8 ∧
      Reason.invalidChunk.code = 0x13#8 ∧ Reason.illegalCommand.code = 0x21#8 ∧ Reason.badState.code = 0x22#8 ∧
      Reason.badAddress.code = 0x23#8)

/-- R25, R42, R57, R9 (the first three derived in the spec; the launch parameters are log entry 1). All the invariants hold
right after reset. -/
def Obligations.ResetSatisfiesInvariants : Prop :=
  State.reset.Inv

/-- R25, derived in the spec from R22 to R24 and R132 to R134. The invariant of unit FRM is kept by every step: whenever
`pkt_status` says `Valid`, PKT holds a packet that validates, of that type and length. -/
def Obligations.StepKeepsFramerInvariant : Prop :=
  ∀ s t : State, s.FramerInv → step s = .next t → t.FramerInv

/-- R42, derived in the spec from R26 to R31 and R156 to R168. The invariants of unit FBT hold at reset and are kept by
every step. -/
def Obligations.StepKeepsTransferInvariant : Prop :=
  State.reset.TransferInv ∧ ∀ s t : State, s.TransferInv → step s = .next t → t.TransferInv

/-- R57, derived in the spec from R133, R42 and R157; the canonical form is the model's own, log entry 2. The memories keep
their canonical form and list no byte outside themselves: in a state of the invariants, no step writes outside PKT, STG or
SRC. -/
def Obligations.StepKeepsMemoryInvariant : Prop :=
  ∀ s t : State, s.TransferInv → s.MemoryInv → step s = .next t → t.MemoryInv
end

