-- ==== Sys2Proof/Laws/Crc.lean ====
section
/-! SUPPORT. Unfolding lemmas of unit CRC: the fold of spec/40_crc_engine.md R111 and the rounds of R110. -/

namespace Sys2Proof.Machine

@[simp] theorem crc16_nil (seed : Half) : crc16 seed [] = seed := rfl

@[simp] theorem crc16_cons (seed : Half) (b : Byte) (bs : List Byte) :
    crc16 seed (b :: bs) = crc16 (crcStep seed b) bs := rfl

@[simp] theorem crcRounds_zero (v : Half) : crcRounds 0 v = v := rfl

@[simp] theorem crcRounds_succ (n : Nat) (v : Half) : crcRounds (n + 1) v = crcRounds n (crcRound v) := rfl

/-- A round on a value with bit 15 clear only shifts. -/
theorem crcRound_of_clear {v : Half} (h : v.getLsbD 15 = false) : crcRound v = v <<< 1 := by
  rw [crcRound, h]; rfl

/-- A round on a value with bit 15 set shifts and folds the constant in. -/
theorem crcRound_of_set {v : Half} (h : v.getLsbD 15 = true) : crcRound v = v <<< 1 ^^^ poly := by
  rw [crcRound, h]; rfl

end Sys2Proof.Machine
end

