-- ==== Sys2Proof/Laws/Decode.lean ====
section
/-! SUPPORT. The small lemmas of the byte order, of the fields of a command word and of the opcode map. -/

namespace Sys2Proof

/-! ## Byte order -/

@[simp] theorem leBytes_length (n v : Nat) : (leBytes n v).length = n := by
  induction n generalizing v with
  | zero => rfl
  | succ n ih => simp [leBytes, ih]

/-- Reading back the `n` bytes of a number gives it, modulo `256 ^ n`. -/
theorem leNat_leBytes (n v : Nat) : leNat (leBytes n v) = v % 256 ^ n := by
  induction n generalizing v with
  | zero => simp [leBytes, leNat, Nat.mod_one]
  | succ n ih =>
    simp only [leBytes, leNat, ih, BitVec.toNat_ofNat]
    rw [show 256 ^ (n + 1) = 256 * 256 ^ n by rw [Nat.pow_succ, Nat.mul_comm], Nat.mod_mul]

theorem leNat_lt (bs : List Byte) : leNat bs < 256 ^ bs.length := by
  induction bs with
  | nil => simp [leNat]
  | cons b bs ih =>
    have hb := b.isLt
    simp only [leNat, List.length_cons, Nat.pow_succ]
    omega

/-- Writing out the number of a byte sequence gives it back. -/
theorem leBytes_leNat (bs : List Byte) : leBytes bs.length (leNat bs) = bs := by
  induction bs with
  | nil => rfl
  | cons b bs ih =>
    have hb := b.isLt
    simp only [List.length_cons, leBytes, leNat]
    rw [show (b.toNat + 256 * leNat bs) / 256 = leNat bs by omega, ih]
    congr 1
    apply BitVec.eq_of_toNat_eq
    simp
    omega

@[simp] theorem ofNat_leNat_leBytes (w : Frame) : BitVec.ofNat 64 (leNat (leBytes 8 w.toNat)) = w := by
  have h := w.isLt
  rw [leNat_leBytes, Nat.mod_eq_of_lt (by omega)]
  simp

/-! ## Fields (R81) -/

theorem wordOp_joinWord (op : BitVec 8) (a : BitVec 24) (b : Word) : wordOp (joinWord op a b) = op := by
  apply BitVec.eq_of_getLsbD_eq
  intro i hi
  simp [wordOp, joinWord, hi, show 56 + i - 32 = 24 + i by omega, show 56 + i < 64 by omega,
    BitVec.getLsbD_of_ge b (56 + i) (by omega)]

theorem wordA_joinWord (op : BitVec 8) (a : BitVec 24) (b : Word) : wordA (joinWord op a b) = a := by
  apply BitVec.eq_of_getLsbD_eq
  intro i hi
  simp [wordA, joinWord, hi, show 32 + i < 64 by omega, show 32 + i < 56 by omega]

theorem wordB_joinWord (op : BitVec 8) (a : BitVec 24) (b : Word) : wordB (joinWord op a b) = b := by
  apply BitVec.eq_of_getLsbD_eq
  intro i hi
  simp [wordB, joinWord, hi, show i < 64 by omega, show i < 56 by omega]

theorem joinWord_fields (w : Frame) : joinWord (wordOp w) (wordA w) (wordB w) = w := by
  apply BitVec.eq_of_getLsbD_eq
  intro i hi
  simp only [wordOp, wordA, wordB, joinWord, BitVec.getLsbD_or, BitVec.getLsbD_shiftLeft, BitVec.getLsbD_setWidth,
    BitVec.getLsbD_extractLsb']
  by_cases h1 : i < 32
  · simp [h1, hi, show i < 56 by omega]
  · by_cases h2 : i < 56
    · simp [h1, hi, h2, show i - 32 < 24 by omega, show 32 + (i - 32) = i by omega]; omega
    · simp [h1, hi, h2, show ¬ i - 32 < 24 by omega, show i - 56 < 8 by omega, show 56 + (i - 56) = i by omega]; omega

/-- A word is known by its three fields. -/
theorem frame_ext {v w : Frame} (ho : wordOp v = wordOp w) (ha : wordA v = wordA w) (hb : wordB v = wordB w) : v = w := by
  rw [← joinWord_fields v, ← joinWord_fields w, ho, ha, hb]

/-! ## The opcode map (R91) -/

@[simp] theorem Opcode.ofCode?_code (o : Opcode) : Opcode.ofCode? o.code = some o := by cases o <;> rfl

theorem Opcode.code_of_ofCode? {c : BitVec 8} {o : Opcode} (h : Opcode.ofCode? c = some o) : o.code = c := by
  have := List.find?_some h
  simpa using this

theorem Opcode.ofCode?_none {c : BitVec 8} (h : Opcode.ofCode? c = none) (o : Opcode) : o.code ≠ c := by
  have := List.find?_eq_none.mp h o (by cases o <;> simp [Opcode.all])
  simpa using this

/-- A legal word is the word of its row with its must-be-zero bits clear. -/
theorem decodeWord_ok_iff (w : Frame) (h : Head) :
    decodeWord w = .ok h ↔
      ∃ o, wordOp w = Opcode.code o ∧ o.format.reservedClear (wordA w) (wordB w) = true ∧ o.head (wordA w) (wordB w) = h := by
  unfold decodeWord
  constructor
  · intro hd
    split at hd
    · cases hd
    · rename_i o ho
      split at hd
      · rename_i hc; exact ⟨o, (Opcode.code_of_ofCode? ho).symm, hc, by injection hd⟩
      · cases hd
  · rintro ⟨o, ho, hc, hh⟩
    simp [ho, hc, hh]

/-- A word of a row that breaks its format, or of no row, is illegal by name (R92). -/
theorem decodeWord_of_code (w : Frame) (o : Opcode) (h : wordOp w = o.code) :
    decodeWord w =
      if o.format.reservedClear (wordA w) (wordB w) then .ok (o.head (wordA w) (wordB w)) else .error (.reservedBitSet o) := by
  simp [decodeWord, h]

/-! ## The stream (R81, R95) -/

/-- What a stream that begins with the bytes of a word decodes to, by the word. -/
theorem decode_word (w : Frame) (rest : List Byte) :
    decode (leBytes 8 w.toNat ++ rest) =
      match decodeWord w with
      | .error why => .illegal why rest
      | .ok (.whole i) => .command i rest
      | .ok (.withData len) =>
        if len.toNat ≤ rest.length then .command (.dlchk (rest.take len.toNat)) (rest.drop len.toNat) else .waiting := by
  unfold decode
  rw [if_pos (by simp), List.take_append_of_le_length (by simp), List.take_of_length_le (by simp), ofNat_leNat_leBytes,
    List.drop_append_of_le_length (by simp), List.drop_of_length_le (l := leBytes 8 _) (by simp)]
  rfl

/-- Fewer than eight bytes are no word, whatever they are (R102). -/
theorem decode_of_short {bs : List Byte} (h : bs.length < 8) : decode bs = .waiting := by
  rw [decode, if_neg (by omega)]

/-! ## Lengths of commands (R95) -/

theorem encode_length (i : Instr) : (encode i).length = 8 + i.dataPhase.length := by
  simp [encode]

end Sys2Proof
end

