-- ==== Sys2Proof/Laws/State.lean ====
section
/-! SUPPORT. What each shared operation does to each field of the state: one lemma a field, true by rfl, so that no proof
unfolds a record update. Then the same for a failure, by reason. -/

namespace Sys2Proof.Machine

variable (s : State)

/-! ## storePkt -/

@[simp] theorem State.storePkt_crc (off : Nat) (b : Byte) : (s.storePkt off b).crc = s.crc := rfl
@[simp] theorem State.storePkt_pktStatus (off : Nat) (b : Byte) : (s.storePkt off b).pktStatus = s.pktStatus := rfl
@[simp] theorem State.storePkt_pktLen (off : Nat) (b : Byte) : (s.storePkt off b).pktLen = s.pktLen := rfl
@[simp] theorem State.storePkt_pktType (off : Nat) (b : Byte) : (s.storePkt off b).pktType = s.pktType := rfl
@[simp] theorem State.storePkt_fbPhase (off : Nat) (b : Byte) : (s.storePkt off b).fbPhase = s.fbPhase := rfl
@[simp] theorem State.storePkt_fbDir (off : Nat) (b : Byte) : (s.storePkt off b).fbDir = s.fbDir := rfl
@[simp] theorem State.storePkt_bytesExpected (off : Nat) (b : Byte) : (s.storePkt off b).bytesExpected = s.bytesExpected := rfl
@[simp] theorem State.storePkt_bytesReceived (off : Nat) (b : Byte) : (s.storePkt off b).bytesReceived = s.bytesReceived := rfl
@[simp] theorem State.storePkt_bytesSent (off : Nat) (b : Byte) : (s.storePkt off b).bytesSent = s.bytesSent := rfl
@[simp] theorem State.storePkt_imageSize (off : Nat) (b : Byte) : (s.storePkt off b).imageSize = s.imageSize := rfl
@[simp] theorem State.storePkt_pkt (off : Nat) (b : Byte) : (s.storePkt off b).pkt = s.pkt.write off b := rfl
@[simp] theorem State.storePkt_stg (off : Nat) (b : Byte) : (s.storePkt off b).stg = s.stg := rfl
@[simp] theorem State.storePkt_src (off : Nat) (b : Byte) : (s.storePkt off b).src = s.src := rfl
@[simp] theorem State.storePkt_cfg (off : Nat) (b : Byte) : (s.storePkt off b).cfg = s.cfg := rfl
@[simp] theorem State.storePkt_epoch (off : Nat) (b : Byte) : (s.storePkt off b).epoch = s.epoch := rfl
@[simp] theorem State.storePkt_cmdPort (off : Nat) (b : Byte) : (s.storePkt off b).cmdPort = s.cmdPort := rfl
@[simp] theorem State.storePkt_rspPort (off : Nat) (b : Byte) : (s.storePkt off b).rspPort = s.rspPort := rfl
@[simp] theorem State.storePkt_resetPin (off : Nat) (b : Byte) : (s.storePkt off b).resetPin = s.resetPin := rfl

/-! ## storeStg -/

@[simp] theorem State.storeStg_crc (off : Nat) (data : List Byte) : (s.storeStg off data).crc = s.crc := rfl
@[simp] theorem State.storeStg_pktStatus (off : Nat) (data : List Byte) : (s.storeStg off data).pktStatus = s.pktStatus := rfl
@[simp] theorem State.storeStg_pktLen (off : Nat) (data : List Byte) : (s.storeStg off data).pktLen = s.pktLen := rfl
@[simp] theorem State.storeStg_pktType (off : Nat) (data : List Byte) : (s.storeStg off data).pktType = s.pktType := rfl
@[simp] theorem State.storeStg_fbPhase (off : Nat) (data : List Byte) : (s.storeStg off data).fbPhase = s.fbPhase := rfl
@[simp] theorem State.storeStg_fbDir (off : Nat) (data : List Byte) : (s.storeStg off data).fbDir = s.fbDir := rfl
@[simp] theorem State.storeStg_bytesExpected (off : Nat) (data : List Byte) : (s.storeStg off data).bytesExpected = s.bytesExpected := rfl
@[simp] theorem State.storeStg_bytesReceived (off : Nat) (data : List Byte) : (s.storeStg off data).bytesReceived = s.bytesReceived := rfl
@[simp] theorem State.storeStg_bytesSent (off : Nat) (data : List Byte) : (s.storeStg off data).bytesSent = s.bytesSent := rfl
@[simp] theorem State.storeStg_imageSize (off : Nat) (data : List Byte) : (s.storeStg off data).imageSize = s.imageSize := rfl
@[simp] theorem State.storeStg_pkt (off : Nat) (data : List Byte) : (s.storeStg off data).pkt = s.pkt := rfl
@[simp] theorem State.storeStg_stg (off : Nat) (data : List Byte) : (s.storeStg off data).stg = s.stg.writeBytes off data := rfl
@[simp] theorem State.storeStg_src (off : Nat) (data : List Byte) : (s.storeStg off data).src = s.src := rfl
@[simp] theorem State.storeStg_cfg (off : Nat) (data : List Byte) : (s.storeStg off data).cfg = s.cfg := rfl
@[simp] theorem State.storeStg_epoch (off : Nat) (data : List Byte) : (s.storeStg off data).epoch = s.epoch := rfl
@[simp] theorem State.storeStg_cmdPort (off : Nat) (data : List Byte) : (s.storeStg off data).cmdPort = s.cmdPort := rfl
@[simp] theorem State.storeStg_rspPort (off : Nat) (data : List Byte) : (s.storeStg off data).rspPort = s.rspPort := rfl
@[simp] theorem State.storeStg_resetPin (off : Nat) (data : List Byte) : (s.storeStg off data).resetPin = s.resetPin := rfl

/-! ## setPktResult -/

@[simp] theorem State.setPktResult_crc (st : PktStatus) (l ty : Word) : (s.setPktResult st l ty).crc = s.crc := rfl
@[simp] theorem State.setPktResult_pktStatus (st : PktStatus) (l ty : Word) : (s.setPktResult st l ty).pktStatus = st := rfl
@[simp] theorem State.setPktResult_pktLen (st : PktStatus) (l ty : Word) : (s.setPktResult st l ty).pktLen = l := rfl
@[simp] theorem State.setPktResult_pktType (st : PktStatus) (l ty : Word) : (s.setPktResult st l ty).pktType = ty := rfl
@[simp] theorem State.setPktResult_fbPhase (st : PktStatus) (l ty : Word) : (s.setPktResult st l ty).fbPhase = s.fbPhase := rfl
@[simp] theorem State.setPktResult_fbDir (st : PktStatus) (l ty : Word) : (s.setPktResult st l ty).fbDir = s.fbDir := rfl
@[simp] theorem State.setPktResult_bytesExpected (st : PktStatus) (l ty : Word) : (s.setPktResult st l ty).bytesExpected = s.bytesExpected := rfl
@[simp] theorem State.setPktResult_bytesReceived (st : PktStatus) (l ty : Word) : (s.setPktResult st l ty).bytesReceived = s.bytesReceived := rfl
@[simp] theorem State.setPktResult_bytesSent (st : PktStatus) (l ty : Word) : (s.setPktResult st l ty).bytesSent = s.bytesSent := rfl
@[simp] theorem State.setPktResult_imageSize (st : PktStatus) (l ty : Word) : (s.setPktResult st l ty).imageSize = s.imageSize := rfl
@[simp] theorem State.setPktResult_pkt (st : PktStatus) (l ty : Word) : (s.setPktResult st l ty).pkt = s.pkt := rfl
@[simp] theorem State.setPktResult_stg (st : PktStatus) (l ty : Word) : (s.setPktResult st l ty).stg = s.stg := rfl
@[simp] theorem State.setPktResult_src (st : PktStatus) (l ty : Word) : (s.setPktResult st l ty).src = s.src := rfl
@[simp] theorem State.setPktResult_cfg (st : PktStatus) (l ty : Word) : (s.setPktResult st l ty).cfg = s.cfg := rfl
@[simp] theorem State.setPktResult_epoch (st : PktStatus) (l ty : Word) : (s.setPktResult st l ty).epoch = s.epoch := rfl
@[simp] theorem State.setPktResult_cmdPort (st : PktStatus) (l ty : Word) : (s.setPktResult st l ty).cmdPort = s.cmdPort := rfl
@[simp] theorem State.setPktResult_rspPort (st : PktStatus) (l ty : Word) : (s.setPktResult st l ty).rspPort = s.rspPort := rfl
@[simp] theorem State.setPktResult_resetPin (st : PktStatus) (l ty : Word) : (s.setPktResult st l ty).resetPin = s.resetPin := rfl

/-! ## setPhase -/

@[simp] theorem State.setPhase_crc (p : Phase) : (s.setPhase p).crc = s.crc := rfl
@[simp] theorem State.setPhase_pktStatus (p : Phase) : (s.setPhase p).pktStatus = s.pktStatus := rfl
@[simp] theorem State.setPhase_pktLen (p : Phase) : (s.setPhase p).pktLen = s.pktLen := rfl
@[simp] theorem State.setPhase_pktType (p : Phase) : (s.setPhase p).pktType = s.pktType := rfl
@[simp] theorem State.setPhase_fbPhase (p : Phase) : (s.setPhase p).fbPhase = p := rfl
@[simp] theorem State.setPhase_fbDir (p : Phase) : (s.setPhase p).fbDir = s.fbDir := rfl
@[simp] theorem State.setPhase_bytesExpected (p : Phase) : (s.setPhase p).bytesExpected = s.bytesExpected := rfl
@[simp] theorem State.setPhase_bytesReceived (p : Phase) : (s.setPhase p).bytesReceived = s.bytesReceived := rfl
@[simp] theorem State.setPhase_bytesSent (p : Phase) : (s.setPhase p).bytesSent = s.bytesSent := rfl
@[simp] theorem State.setPhase_imageSize (p : Phase) : (s.setPhase p).imageSize = s.imageSize := rfl
@[simp] theorem State.setPhase_pkt (p : Phase) : (s.setPhase p).pkt = s.pkt := rfl
@[simp] theorem State.setPhase_stg (p : Phase) : (s.setPhase p).stg = s.stg := rfl
@[simp] theorem State.setPhase_src (p : Phase) : (s.setPhase p).src = s.src := rfl
@[simp] theorem State.setPhase_cfg (p : Phase) : (s.setPhase p).cfg = s.cfg := rfl
@[simp] theorem State.setPhase_epoch (p : Phase) : (s.setPhase p).epoch = s.epoch := rfl
@[simp] theorem State.setPhase_cmdPort (p : Phase) : (s.setPhase p).cmdPort = s.cmdPort := rfl
@[simp] theorem State.setPhase_rspPort (p : Phase) : (s.setPhase p).rspPort = s.rspPort := rfl
@[simp] theorem State.setPhase_resetPin (p : Phase) : (s.setPhase p).resetPin = s.resetPin := rfl

/-! ## announce -/

@[simp] theorem State.announce_crc (d : Dir) (n : Word) : (s.announce d n).crc = s.crc := rfl
@[simp] theorem State.announce_pktStatus (d : Dir) (n : Word) : (s.announce d n).pktStatus = s.pktStatus := rfl
@[simp] theorem State.announce_pktLen (d : Dir) (n : Word) : (s.announce d n).pktLen = s.pktLen := rfl
@[simp] theorem State.announce_pktType (d : Dir) (n : Word) : (s.announce d n).pktType = s.pktType := rfl
@[simp] theorem State.announce_fbPhase (d : Dir) (n : Word) : (s.announce d n).fbPhase = .announced := rfl
@[simp] theorem State.announce_fbDir (d : Dir) (n : Word) : (s.announce d n).fbDir = d := rfl
@[simp] theorem State.announce_bytesExpected (d : Dir) (n : Word) : (s.announce d n).bytesExpected = n := rfl
@[simp] theorem State.announce_bytesReceived (d : Dir) (n : Word) : (s.announce d n).bytesReceived = 0#32 := rfl
@[simp] theorem State.announce_bytesSent (d : Dir) (n : Word) : (s.announce d n).bytesSent = 0#32 := rfl
@[simp] theorem State.announce_imageSize (d : Dir) (n : Word) : (s.announce d n).imageSize = s.imageSize := rfl
@[simp] theorem State.announce_pkt (d : Dir) (n : Word) : (s.announce d n).pkt = s.pkt := rfl
@[simp] theorem State.announce_stg (d : Dir) (n : Word) : (s.announce d n).stg = s.stg := rfl
@[simp] theorem State.announce_src (d : Dir) (n : Word) : (s.announce d n).src = s.src := rfl
@[simp] theorem State.announce_cfg (d : Dir) (n : Word) : (s.announce d n).cfg = s.cfg := rfl
@[simp] theorem State.announce_epoch (d : Dir) (n : Word) : (s.announce d n).epoch = s.epoch := rfl
@[simp] theorem State.announce_cmdPort (d : Dir) (n : Word) : (s.announce d n).cmdPort = s.cmdPort := rfl
@[simp] theorem State.announce_rspPort (d : Dir) (n : Word) : (s.announce d n).rspPort = s.rspPort := rfl
@[simp] theorem State.announce_resetPin (d : Dir) (n : Word) : (s.announce d n).resetPin = s.resetPin := rfl

/-! ## finishTransfer -/

@[simp] theorem State.finishTransfer_crc : (s.finishTransfer).crc = s.crc := rfl
@[simp] theorem State.finishTransfer_pktStatus : (s.finishTransfer).pktStatus = s.pktStatus := rfl
@[simp] theorem State.finishTransfer_pktLen : (s.finishTransfer).pktLen = s.pktLen := rfl
@[simp] theorem State.finishTransfer_pktType : (s.finishTransfer).pktType = s.pktType := rfl
@[simp] theorem State.finishTransfer_fbPhase : (s.finishTransfer).fbPhase = .complete := rfl
@[simp] theorem State.finishTransfer_fbDir : (s.finishTransfer).fbDir = s.fbDir := rfl
@[simp] theorem State.finishTransfer_bytesExpected : (s.finishTransfer).bytesExpected = 0#32 := rfl
@[simp] theorem State.finishTransfer_bytesReceived : (s.finishTransfer).bytesReceived = 0#32 := rfl
@[simp] theorem State.finishTransfer_bytesSent : (s.finishTransfer).bytesSent = 0#32 := rfl
@[simp] theorem State.finishTransfer_imageSize : (s.finishTransfer).imageSize = s.imageSize := rfl
@[simp] theorem State.finishTransfer_pkt : (s.finishTransfer).pkt = s.pkt := rfl
@[simp] theorem State.finishTransfer_stg : (s.finishTransfer).stg = s.stg := rfl
@[simp] theorem State.finishTransfer_src : (s.finishTransfer).src = s.src := rfl
@[simp] theorem State.finishTransfer_cfg : (s.finishTransfer).cfg = s.cfg := rfl
@[simp] theorem State.finishTransfer_epoch : (s.finishTransfer).epoch = s.epoch := rfl
@[simp] theorem State.finishTransfer_cmdPort : (s.finishTransfer).cmdPort = s.cmdPort := rfl
@[simp] theorem State.finishTransfer_rspPort : (s.finishTransfer).rspPort = s.rspPort := rfl
@[simp] theorem State.finishTransfer_resetPin : (s.finishTransfer).resetPin = s.resetPin := rfl

/-! ## resetRegisters -/

@[simp] theorem State.resetRegisters_crc : (s.resetRegisters).crc = 0#16 := rfl
@[simp] theorem State.resetRegisters_pktStatus : (s.resetRegisters).pktStatus = .notValidated := rfl
@[simp] theorem State.resetRegisters_pktLen : (s.resetRegisters).pktLen = 0#32 := rfl
@[simp] theorem State.resetRegisters_pktType : (s.resetRegisters).pktType = 0#32 := rfl
@[simp] theorem State.resetRegisters_fbPhase : (s.resetRegisters).fbPhase = .idle := rfl
@[simp] theorem State.resetRegisters_fbDir : (s.resetRegisters).fbDir = .download := rfl
@[simp] theorem State.resetRegisters_bytesExpected : (s.resetRegisters).bytesExpected = 0#32 := rfl
@[simp] theorem State.resetRegisters_bytesReceived : (s.resetRegisters).bytesReceived = 0#32 := rfl
@[simp] theorem State.resetRegisters_bytesSent : (s.resetRegisters).bytesSent = 0#32 := rfl
@[simp] theorem State.resetRegisters_imageSize : (s.resetRegisters).imageSize = 0#32 := rfl
@[simp] theorem State.resetRegisters_pkt : (s.resetRegisters).pkt = s.pkt := rfl
@[simp] theorem State.resetRegisters_stg : (s.resetRegisters).stg = s.stg := rfl
@[simp] theorem State.resetRegisters_src : (s.resetRegisters).src = s.src := rfl
@[simp] theorem State.resetRegisters_cfg : (s.resetRegisters).cfg = s.cfg := rfl
@[simp] theorem State.resetRegisters_epoch : (s.resetRegisters).epoch = s.epoch := rfl
@[simp] theorem State.resetRegisters_cmdPort : (s.resetRegisters).cmdPort = s.cmdPort := rfl
@[simp] theorem State.resetRegisters_rspPort : (s.resetRegisters).rspPort = s.rspPort := rfl
@[simp] theorem State.resetRegisters_resetPin : (s.resetRegisters).resetPin = s.resetPin := rfl

/-! ## respond -/

@[simp] theorem State.respond_crc (r : Response) : (s.respond r).crc = s.crc := rfl
@[simp] theorem State.respond_pktStatus (r : Response) : (s.respond r).pktStatus = s.pktStatus := rfl
@[simp] theorem State.respond_pktLen (r : Response) : (s.respond r).pktLen = s.pktLen := rfl
@[simp] theorem State.respond_pktType (r : Response) : (s.respond r).pktType = s.pktType := rfl
@[simp] theorem State.respond_fbPhase (r : Response) : (s.respond r).fbPhase = s.fbPhase := rfl
@[simp] theorem State.respond_fbDir (r : Response) : (s.respond r).fbDir = s.fbDir := rfl
@[simp] theorem State.respond_bytesExpected (r : Response) : (s.respond r).bytesExpected = s.bytesExpected := rfl
@[simp] theorem State.respond_bytesReceived (r : Response) : (s.respond r).bytesReceived = s.bytesReceived := rfl
@[simp] theorem State.respond_bytesSent (r : Response) : (s.respond r).bytesSent = s.bytesSent := rfl
@[simp] theorem State.respond_imageSize (r : Response) : (s.respond r).imageSize = s.imageSize := rfl
@[simp] theorem State.respond_pkt (r : Response) : (s.respond r).pkt = s.pkt := rfl
@[simp] theorem State.respond_stg (r : Response) : (s.respond r).stg = s.stg := rfl
@[simp] theorem State.respond_src (r : Response) : (s.respond r).src = s.src := rfl
@[simp] theorem State.respond_cfg (r : Response) : (s.respond r).cfg = s.cfg := rfl
@[simp] theorem State.respond_epoch (r : Response) : (s.respond r).epoch = s.epoch := rfl
@[simp] theorem State.respond_cmdPort (r : Response) : (s.respond r).cmdPort = s.cmdPort := rfl
@[simp] theorem State.respond_rspPort (r : Response) : (s.respond r).rspPort = s.rspPort ++ [r] := rfl
@[simp] theorem State.respond_resetPin (r : Response) : (s.respond r).resetPin = s.resetPin := rfl

/-! ## respondOkay -/

@[simp] theorem State.respondOkay_crc (v : Word) : (s.respondOkay v).crc = s.crc := rfl
@[simp] theorem State.respondOkay_pktStatus (v : Word) : (s.respondOkay v).pktStatus = s.pktStatus := rfl
@[simp] theorem State.respondOkay_pktLen (v : Word) : (s.respondOkay v).pktLen = s.pktLen := rfl
@[simp] theorem State.respondOkay_pktType (v : Word) : (s.respondOkay v).pktType = s.pktType := rfl
@[simp] theorem State.respondOkay_fbPhase (v : Word) : (s.respondOkay v).fbPhase = s.fbPhase := rfl
@[simp] theorem State.respondOkay_fbDir (v : Word) : (s.respondOkay v).fbDir = s.fbDir := rfl
@[simp] theorem State.respondOkay_bytesExpected (v : Word) : (s.respondOkay v).bytesExpected = s.bytesExpected := rfl
@[simp] theorem State.respondOkay_bytesReceived (v : Word) : (s.respondOkay v).bytesReceived = s.bytesReceived := rfl
@[simp] theorem State.respondOkay_bytesSent (v : Word) : (s.respondOkay v).bytesSent = s.bytesSent := rfl
@[simp] theorem State.respondOkay_imageSize (v : Word) : (s.respondOkay v).imageSize = s.imageSize := rfl
@[simp] theorem State.respondOkay_pkt (v : Word) : (s.respondOkay v).pkt = s.pkt := rfl
@[simp] theorem State.respondOkay_stg (v : Word) : (s.respondOkay v).stg = s.stg := rfl
@[simp] theorem State.respondOkay_src (v : Word) : (s.respondOkay v).src = s.src := rfl
@[simp] theorem State.respondOkay_cfg (v : Word) : (s.respondOkay v).cfg = s.cfg := rfl
@[simp] theorem State.respondOkay_epoch (v : Word) : (s.respondOkay v).epoch = s.epoch := rfl
@[simp] theorem State.respondOkay_cmdPort (v : Word) : (s.respondOkay v).cmdPort = s.cmdPort := rfl
@[simp] theorem State.respondOkay_rspPort (v : Word) : (s.respondOkay v).rspPort = s.rspPort ++ [.okay v false []] := rfl
@[simp] theorem State.respondOkay_resetPin (v : Word) : (s.respondOkay v).resetPin = s.resetPin := rfl

/-! ## takeCommand -/

@[simp] theorem State.takeCommand_crc (rest : List Byte) : (s.takeCommand rest).crc = s.crc := rfl
@[simp] theorem State.takeCommand_pktStatus (rest : List Byte) : (s.takeCommand rest).pktStatus = s.pktStatus := rfl
@[simp] theorem State.takeCommand_pktLen (rest : List Byte) : (s.takeCommand rest).pktLen = s.pktLen := rfl
@[simp] theorem State.takeCommand_pktType (rest : List Byte) : (s.takeCommand rest).pktType = s.pktType := rfl
@[simp] theorem State.takeCommand_fbPhase (rest : List Byte) : (s.takeCommand rest).fbPhase = s.fbPhase := rfl
@[simp] theorem State.takeCommand_fbDir (rest : List Byte) : (s.takeCommand rest).fbDir = s.fbDir := rfl
@[simp] theorem State.takeCommand_bytesExpected (rest : List Byte) : (s.takeCommand rest).bytesExpected = s.bytesExpected := rfl
@[simp] theorem State.takeCommand_bytesReceived (rest : List Byte) : (s.takeCommand rest).bytesReceived = s.bytesReceived := rfl
@[simp] theorem State.takeCommand_bytesSent (rest : List Byte) : (s.takeCommand rest).bytesSent = s.bytesSent := rfl
@[simp] theorem State.takeCommand_imageSize (rest : List Byte) : (s.takeCommand rest).imageSize = s.imageSize := rfl
@[simp] theorem State.takeCommand_pkt (rest : List Byte) : (s.takeCommand rest).pkt = s.pkt := rfl
@[simp] theorem State.takeCommand_stg (rest : List Byte) : (s.takeCommand rest).stg = s.stg := rfl
@[simp] theorem State.takeCommand_src (rest : List Byte) : (s.takeCommand rest).src = s.src := rfl
@[simp] theorem State.takeCommand_cfg (rest : List Byte) : (s.takeCommand rest).cfg = s.cfg := rfl
@[simp] theorem State.takeCommand_epoch (rest : List Byte) : (s.takeCommand rest).epoch = s.epoch := rfl
@[simp] theorem State.takeCommand_cmdPort (rest : List Byte) : (s.takeCommand rest).cmdPort = rest := rfl
@[simp] theorem State.takeCommand_rspPort (rest : List Byte) : (s.takeCommand rest).rspPort = s.rspPort := rfl
@[simp] theorem State.takeCommand_resetPin (rest : List Byte) : (s.takeCommand rest).resetPin = s.resetPin := rfl

/-! ## hardwareReset -/

@[simp] theorem State.hardwareReset_crc : (s.hardwareReset).crc = 0#16 := rfl
@[simp] theorem State.hardwareReset_pktStatus : (s.hardwareReset).pktStatus = .notValidated := rfl
@[simp] theorem State.hardwareReset_pktLen : (s.hardwareReset).pktLen = 0#32 := rfl
@[simp] theorem State.hardwareReset_pktType : (s.hardwareReset).pktType = 0#32 := rfl
@[simp] theorem State.hardwareReset_fbPhase : (s.hardwareReset).fbPhase = .idle := rfl
@[simp] theorem State.hardwareReset_fbDir : (s.hardwareReset).fbDir = .download := rfl
@[simp] theorem State.hardwareReset_bytesExpected : (s.hardwareReset).bytesExpected = 0#32 := rfl
@[simp] theorem State.hardwareReset_bytesReceived : (s.hardwareReset).bytesReceived = 0#32 := rfl
@[simp] theorem State.hardwareReset_bytesSent : (s.hardwareReset).bytesSent = 0#32 := rfl
@[simp] theorem State.hardwareReset_imageSize : (s.hardwareReset).imageSize = 0#32 := rfl
@[simp] theorem State.hardwareReset_pkt : (s.hardwareReset).pkt = [] := rfl
@[simp] theorem State.hardwareReset_stg : (s.hardwareReset).stg = [] := rfl
@[simp] theorem State.hardwareReset_src : (s.hardwareReset).src = s.src := rfl
@[simp] theorem State.hardwareReset_cfg : (s.hardwareReset).cfg = s.cfg := rfl
@[simp] theorem State.hardwareReset_epoch : (s.hardwareReset).epoch = s.epoch + 1 := rfl
@[simp] theorem State.hardwareReset_cmdPort : (s.hardwareReset).cmdPort = s.cmdPort := rfl
@[simp] theorem State.hardwareReset_rspPort : (s.hardwareReset).rspPort = [] := rfl
@[simp] theorem State.hardwareReset_resetPin : (s.hardwareReset).resetPin = false := rfl

/-! ## raiseFail (R211): a failure touches nothing but the result registers, the phase and the response port -/

@[simp] theorem State.failureWrites_crc (r : Reason) : (s.failureWrites r).crc = s.crc := by cases r <;> rfl
@[simp] theorem State.failureWrites_fbDir (r : Reason) : (s.failureWrites r).fbDir = s.fbDir := by cases r <;> rfl
@[simp] theorem State.failureWrites_bytesExpected (r : Reason) : (s.failureWrites r).bytesExpected = s.bytesExpected := by cases r <;> rfl
@[simp] theorem State.failureWrites_bytesReceived (r : Reason) : (s.failureWrites r).bytesReceived = s.bytesReceived := by cases r <;> rfl
@[simp] theorem State.failureWrites_bytesSent (r : Reason) : (s.failureWrites r).bytesSent = s.bytesSent := by cases r <;> rfl
@[simp] theorem State.failureWrites_imageSize (r : Reason) : (s.failureWrites r).imageSize = s.imageSize := by cases r <;> rfl
@[simp] theorem State.failureWrites_pkt (r : Reason) : (s.failureWrites r).pkt = s.pkt := by cases r <;> rfl
@[simp] theorem State.failureWrites_stg (r : Reason) : (s.failureWrites r).stg = s.stg := by cases r <;> rfl
@[simp] theorem State.failureWrites_src (r : Reason) : (s.failureWrites r).src = s.src := by cases r <;> rfl
@[simp] theorem State.failureWrites_cfg (r : Reason) : (s.failureWrites r).cfg = s.cfg := by cases r <;> rfl
@[simp] theorem State.failureWrites_epoch (r : Reason) : (s.failureWrites r).epoch = s.epoch := by cases r <;> rfl
@[simp] theorem State.failureWrites_cmdPort (r : Reason) : (s.failureWrites r).cmdPort = s.cmdPort := by cases r <;> rfl
@[simp] theorem State.failureWrites_resetPin (r : Reason) : (s.failureWrites r).resetPin = s.resetPin := by cases r <;> rfl
@[simp] theorem State.failureWrites_rspPort (r : Reason) : (s.failureWrites r).rspPort = s.rspPort := by cases r <;> rfl

@[simp] theorem State.raiseFail_crc (r : Reason) : (s.raiseFail r).crc = s.crc := by simp [State.raiseFail]
@[simp] theorem State.raiseFail_fbDir (r : Reason) : (s.raiseFail r).fbDir = s.fbDir := by simp [State.raiseFail]
@[simp] theorem State.raiseFail_bytesExpected (r : Reason) : (s.raiseFail r).bytesExpected = s.bytesExpected := by simp [State.raiseFail]
@[simp] theorem State.raiseFail_bytesReceived (r : Reason) : (s.raiseFail r).bytesReceived = s.bytesReceived := by simp [State.raiseFail]
@[simp] theorem State.raiseFail_bytesSent (r : Reason) : (s.raiseFail r).bytesSent = s.bytesSent := by simp [State.raiseFail]
@[simp] theorem State.raiseFail_imageSize (r : Reason) : (s.raiseFail r).imageSize = s.imageSize := by simp [State.raiseFail]
@[simp] theorem State.raiseFail_pkt (r : Reason) : (s.raiseFail r).pkt = s.pkt := by simp [State.raiseFail]
@[simp] theorem State.raiseFail_stg (r : Reason) : (s.raiseFail r).stg = s.stg := by simp [State.raiseFail]
@[simp] theorem State.raiseFail_src (r : Reason) : (s.raiseFail r).src = s.src := by simp [State.raiseFail]
@[simp] theorem State.raiseFail_cfg (r : Reason) : (s.raiseFail r).cfg = s.cfg := by simp [State.raiseFail]
@[simp] theorem State.raiseFail_epoch (r : Reason) : (s.raiseFail r).epoch = s.epoch := by simp [State.raiseFail]
@[simp] theorem State.raiseFail_cmdPort (r : Reason) : (s.raiseFail r).cmdPort = s.cmdPort := by simp [State.raiseFail]
@[simp] theorem State.raiseFail_resetPin (r : Reason) : (s.raiseFail r).resetPin = s.resetPin := by simp [State.raiseFail]
@[simp] theorem State.raiseFail_rspPort (r : Reason) : (s.raiseFail r).rspPort = s.rspPort ++ [.fail r] := by
  simp [State.raiseFail]

/-- The reasons that write no register: the failure is the response and nothing else (R211). -/
theorem State.raiseFail_pure {r : Reason}
    (h : r = .invalidSize ∨ r = .sizeTooLarge ∨ r = .illegalCommand ∨ r = .badState ∨ r = .badAddress) :
    s.raiseFail r = s.respond (.fail r) := by
  rcases h with rfl | rfl | rfl | rfl | rfl <;> rfl

/-- `InvalidChunk` moves the phase to `Aborted` and does nothing else (R158, R165). -/
theorem State.raiseFail_invalidChunk : s.raiseFail .invalidChunk = (s.setPhase .aborted).respond (.fail .invalidChunk) := rfl

/-- The state that a failure leaves, by reason, in the registers it can write (R211). -/
theorem State.raiseFail_registers (r : Reason) :
    (s.raiseFail r).registers =
      match r with
      | .headerMismatch => { s.registers with pktStatus := .headerMismatch, pktLen := 0#32, pktType := 0#32 }
      | .typeMismatch => { s.registers with pktStatus := .typeMismatch, pktLen := 0#32, pktType := 0#32 }
      | .lengthTooLarge => { s.registers with pktStatus := .lengthTooLarge, pktLen := 0#32, pktType := 0#32 }
      | .crcMismatch => { s.registers with pktStatus := .crcMismatch, pktLen := 0#32, pktType := 0#32 }
      | .invalidChunk => { s.registers with fbPhase := .aborted }
      | .invalidSize => s.registers
      | .sizeTooLarge => s.registers
      | .illegalCommand => s.registers
      | .badState => s.registers
      | .badAddress => s.registers := by
  cases r <;> rfl

end Sys2Proof.Machine
end

