-- ==== Sys2Proof/Laws/Memory.lean ====
section
/-! SUPPORT. The basic laws of memory: a read after a write (spec/20_memory.md R63), the canonical form, and what the
operations over memory list; then the same through the read of one byte. -/

namespace Sys2Proof.Machine

/-! ## One byte -/

@[simp] theorem Memory.lookup_write_same (m : Memory) (a : Nat) (b : Byte) : (m.write a b).lookup a = some b := by
  induction m with
  | nil => simp [Memory.write, Memory.lookup]
  | cons c m ih =>
    simp only [Memory.write]
    split
    · simp [Memory.lookup]
    · split
      · simp [Memory.lookup]
      · rename_i h; simp [Memory.lookup, Ne.symm h, ih]

theorem Memory.lookup_write_of_ne (m : Memory) {a x : Nat} (b : Byte) (h : x ≠ a) :
    (m.write a b).lookup x = m.lookup x := by
  induction m with
  | nil => simp [Memory.write, Memory.lookup, Ne.symm h]
  | cons c m ih =>
    simp only [Memory.write]
    split
    · simp [Memory.lookup, Ne.symm h]
    · split
      · rename_i h2; subst h2; simp [Memory.lookup, Ne.symm h]
      · simp [Memory.lookup, ih]

/-- A write lists the address written and what was listed before. -/
theorem Memory.mem_write {m : Memory} {a : Nat} {b : Byte} {c : Host.Cell} (h : c ∈ m.write a b) : c = (a, b) ∨ c ∈ m := by
  induction m with
  | nil => simpa [Memory.write] using h
  | cons d m ih =>
    simp only [Memory.write] at h
    split at h
    · simpa using h
    · split at h
      · rcases List.mem_cons.mp h with h | h
        · exact .inl h
        · exact .inr (List.mem_cons_of_mem _ h)
      · rcases List.mem_cons.mp h with h | h
        · exact .inr (h ▸ List.mem_cons_self)
        · rcases ih h with h | h
          · exact .inl h
          · exact .inr (List.mem_cons_of_mem _ h)

/-- A write keeps the canonical form. -/
theorem Memory.wf_write {m : Memory} (hm : m.wf) (a : Nat) (b : Byte) : (m.write a b).wf := by
  induction m with
  | nil => simp [Memory.write, Memory.wf]
  | cons c m ih =>
    have hc : ∀ d ∈ m, c.1 < d.1 := (List.pairwise_cons.mp hm).1
    have hm' : Memory.wf m := (List.pairwise_cons.mp hm).2
    simp only [Memory.write]
    split
    · rename_i h
      refine List.pairwise_cons.mpr ⟨fun d hd => ?_, hm⟩
      rcases List.mem_cons.mp hd with rfl | hd
      · exact h
      · exact Nat.lt_trans h (hc d hd)
    · split
      · rename_i h
        exact List.pairwise_cons.mpr ⟨fun d hd => by simpa [h] using hc d hd, hm'⟩
      · refine List.pairwise_cons.mpr ⟨fun d hd => ?_, ih hm'⟩
        rcases Memory.mem_write hd with rfl | hd
        · simp only; omega
        · exact hc d hd

/-! ## A run of bytes (R160) -/

theorem Memory.lookup_writeBytes_of_lt (m : Memory) (a x : Nat) (bs : List Byte) (h : x < a) :
    (m.writeBytes a bs).lookup x = m.lookup x := by
  induction bs generalizing m a with
  | nil => rfl
  | cons b bs ih => simp only [Memory.writeBytes]; rw [ih _ _ (by omega), Memory.lookup_write_of_ne _ _ (by omega)]

/-- Byte `k` of the run stands at `a + k`. -/
theorem Memory.lookup_writeBytes_in (m : Memory) (a k : Nat) (bs : List Byte) (h : k < bs.length) :
    (m.writeBytes a bs).lookup (a + k) = some bs[k] := by
  induction bs generalizing m a k with
  | nil => simp at h
  | cons b bs ih =>
    simp only [Memory.writeBytes]
    cases k with
    | zero => simp [Memory.lookup_writeBytes_of_lt]
    | succ k =>
      have := ih (m.write a b) (a + 1) k (by simpa using h)
      rw [show a + (k + 1) = a + 1 + k by omega, this]; simp

/-- An address outside the run is untouched. -/
theorem Memory.lookup_writeBytes_out (m : Memory) (a x : Nat) (bs : List Byte) (h : x < a ∨ a + bs.length ≤ x) :
    (m.writeBytes a bs).lookup x = m.lookup x := by
  induction bs generalizing m a with
  | nil => rfl
  | cons b bs ih =>
    simp only [List.length_cons] at h
    simp only [Memory.writeBytes]
    rw [ih _ _ (by omega), Memory.lookup_write_of_ne _ _ (by omega)]

theorem Memory.mem_writeBytes {m : Memory} {a : Nat} {bs : List Byte} {c : Host.Cell} (h : c ∈ m.writeBytes a bs) :
    (a ≤ c.1 ∧ c.1 < a + bs.length) ∨ c ∈ m := by
  induction bs generalizing m a with
  | nil => exact .inr h
  | cons b bs ih =>
    simp only [List.length_cons]
    rcases ih h with h | h
    · left; omega
    · rcases Memory.mem_write h with rfl | h
      · left; simp
      · exact .inr h

theorem Memory.wf_writeBytes {m : Memory} (hm : m.wf) (a : Nat) (bs : List Byte) : (m.writeBytes a bs).wf := by
  induction bs generalizing m a with
  | nil => exact hm
  | cons b bs ih => exact ih (Memory.wf_write hm a b) (a + 1)

/-! ## The read of one byte -/

/-- What a byte reads as depends on what its memory lists and on the launch values alone. -/
theorem State.read_congr {s t : State} {sp : Space} (hm : t.memory sp = s.memory sp) (he : t.epoch = s.epoch) (a : Nat) :
    t.read sp a = s.read sp a := by
  cases sp <;> simp [State.read, State.launchByte, hm, he]

theorem State.readBytes_congr {s t : State} {sp : Space} (hm : t.memory sp = s.memory sp) (he : t.epoch = s.epoch)
    (a n : Nat) : t.readBytes sp a n = s.readBytes sp a n := by
  simp [State.readBytes, State.read_congr hm he]

/-- Two states whose memories list the same, in the same epoch, read the same everywhere. -/
theorem SameMemory.of_lists {s t : State} (hp : t.pkt = s.pkt) (hg : t.stg = s.stg) (hr : t.src = s.src)
    (he : t.epoch = s.epoch) : SameMemory s t := by
  intro sp a
  refine State.read_congr ?_ he a
  cases sp
  · exact hp
  · exact hg
  · exact hr

@[simp] theorem State.readBytes_length (s : State) (sp : Space) (a n : Nat) : (s.readBytes sp a n).length = n := by
  simp [State.readBytes]

@[simp] theorem State.readBytes_getElem (s : State) (sp : Space) (a n k : Nat) (h : k < (s.readBytes sp a n).length) :
    (s.readBytes sp a n)[k] = s.read sp (a + k) := by
  simp [State.readBytes]

theorem State.readBytes_add (s : State) (sp : Space) (a m n : Nat) :
    s.readBytes sp a (m + n) = s.readBytes sp a m ++ s.readBytes sp (a + m) n := by
  simp [State.readBytes, List.range_add, Function.comp_def, Nat.add_assoc]

theorem State.readBytes_ext {s t : State} {sp : Space} {a n : Nat} (h : ∀ k < n, t.read sp (a + k) = s.read sp (a + k)) :
    t.readBytes sp a n = s.readBytes sp a n := by
  simpa [State.readBytes] using h

/-- Storing a byte of PKT: that byte reads as stored (R63). -/
@[simp] theorem State.read_storePkt_same (s : State) (off : Nat) (b : Byte) : (s.storePkt off b).read .pkt off = b := by
  simp [State.read, State.memory]

theorem State.read_storePkt_of_ne (s : State) {off x : Nat} (b : Byte) (h : x ≠ off) :
    (s.storePkt off b).read .pkt x = s.read .pkt x := by
  simp [State.read, State.memory, State.launchByte, Memory.lookup_write_of_ne _ _ h]

/-- Storing a chunk: byte `k` of it stands at `off + k` of STG (R160). -/
theorem State.read_storeStg_in (s : State) (off k : Nat) (data : List Byte) (h : k < data.length) :
    (s.storeStg off data).read .stg (off + k) = data[k] := by
  simp [State.read, State.memory, Memory.lookup_writeBytes_in _ _ _ _ h]

theorem State.read_storeStg_out (s : State) (off x : Nat) (data : List Byte) (h : x < off ∨ off + data.length ≤ x) :
    (s.storeStg off data).read .stg x = s.read .stg x := by
  simp [State.read, State.memory, State.launchByte, Memory.lookup_writeBytes_out _ _ _ _ h]

/-- Responding and writing result registers or the phase leaves every byte and every read as it was. -/
@[simp] theorem State.read_respond (s : State) (r : Response) (sp : Space) (a : Nat) :
    (s.respond r).read sp a = s.read sp a := by cases sp <;> rfl

@[simp] theorem State.read_setPktResult (s : State) (st : PktStatus) (l ty : Word) (sp : Space) (a : Nat) :
    (s.setPktResult st l ty).read sp a = s.read sp a := by cases sp <;> rfl

@[simp] theorem State.read_setPhase (s : State) (p : Phase) (sp : Space) (a : Nat) :
    (s.setPhase p).read sp a = s.read sp a := by cases sp <;> rfl

@[simp] theorem State.read_raiseFail (s : State) (r : Reason) (sp : Space) (a : Nat) :
    (s.raiseFail r).read sp a = s.read sp a := by cases r <;> cases sp <;> rfl

end Sys2Proof.Machine
end

