-- ==== Sys2Proof/Laws/Exec.lean ====
section
/-! SUPPORT. Once for each shared operation of the commands, everything it can do; once for the step, what each event gives.
Proofs about commands cite these and unfold nothing. -/

namespace Sys2Proof.Machine

/-! ## The checks -/

theorem Phase.live_iff (p : Phase) : p.live = true ↔ p = .announced ∨ p = .transferring := by
  cases p <;> simp [Phase.live]

/-- When a chunk or complete command of a direction is accepted (R153). -/
theorem State.accepts_iff (s : State) (d : Dir) :
    s.accepts d = true ↔ (s.fbPhase = .announced ∨ s.fbPhase = .transferring) ∧ s.fbDir = d := by
  simp [State.accepts, Phase.live_iff]

/-- When a chunk's length is refused, on natural numbers (R151). -/
theorem chunkInvalid_iff (count : Word) (len : Nat) (expected : Word) :
    chunkInvalid count len expected = true ↔ len = 0 ∨ expected.toNat < count.toNat + len := by
  simp [chunkInvalid]

theorem progressFlag_iff (interval before after : Nat) :
    progressFlag interval before after = true ↔ before / interval ≠ after / interval := by
  simp [progressFlag]

@[simp] theorem RegName.ofId?_id (r : RegName) : RegName.ofId? r.id = some r := by cases r <;> rfl

theorem RegName.id_of_ofId? {id : BitVec 8} {r : RegName} (h : RegName.ofId? id = some r) : r.id = id := by
  simpa using List.find?_some h

theorem RegName.ofId?_none {id : BitVec 8} : RegName.ofId? id = none ↔ ∀ r : RegName, r.id ≠ id := by
  constructor
  · intro h r
    simpa using List.find?_eq_none.mp h r (by cases r <;> simp [RegName.all])
  · intro h
    exact List.find?_eq_none.mpr fun r _ => by simpa using h r

/-! ## The commands' own operations -/

/-- An announce does one of three things (R156, R162). -/
theorem State.announceChecked_cases (d : Dir) (limit : Nat) (size : Word) (s : State) :
    (size = 0#32 ∧ s.announceChecked d limit size = s.respond (.fail .invalidSize)) ∨
      (size ≠ 0#32 ∧ limit < size.toNat ∧ s.announceChecked d limit size = s.respond (.fail .sizeTooLarge)) ∨
      (size ≠ 0#32 ∧ size.toNat ≤ limit ∧
        s.announceChecked d limit size = (s.announce d size).respond (.size size)) := by
  by_cases h0 : size = 0#32
  · exact .inl ⟨h0, by simp [State.announceChecked, h0, s.raiseFail_pure]⟩
  · by_cases h1 : limit < size.toNat
    · exact .inr (.inl ⟨h0, h1, by simp [State.announceChecked, h0, h1, s.raiseFail_pure]⟩)
    · exact .inr (.inr ⟨h0, by omega, by simp [State.announceChecked, h0, h1]⟩)

/-- What `execDlchk` answers, by the checks (R154, R157, R158). -/
theorem execDlchk_cases (data : List Byte) (s : State) :
    (s.accepts .download = false ∧ execDlchk data s = .next (s.respond (.fail .badState))) ∨
      (s.accepts .download = true ∧ chunkInvalid s.bytesReceived data.length s.bytesExpected = true ∧
        execDlchk data s = .next ((s.setPhase .aborted).respond (.fail .invalidChunk))) ∨
      (s.accepts .download = true ∧ chunkInvalid s.bytesReceived data.length s.bytesExpected = false ∧
        execDlchk data s = .next (s.downloadChunk data)) := by
  cases ha : s.accepts .download
  · exact .inl ⟨rfl, by simp [execDlchk, ha, s.raiseFail_pure]⟩
  · cases hc : chunkInvalid s.bytesReceived data.length s.bytesExpected
    · exact .inr (.inr ⟨rfl, rfl, by simp [execDlchk, ha, hc]⟩)
    · exact .inr (.inl ⟨rfl, rfl, by simp [execDlchk, ha, hc, State.raiseFail_invalidChunk]⟩)

/-- What `execUlchk` answers, by the checks (R154, R163, R165). -/
theorem execUlchk_cases (len : Word) (s : State) :
    (s.accepts .upload = false ∧ execUlchk len s = .next (s.respond (.fail .badState))) ∨
      (s.accepts .upload = true ∧ chunkInvalid s.bytesSent len.toNat s.bytesExpected = true ∧
        execUlchk len s = .next ((s.setPhase .aborted).respond (.fail .invalidChunk))) ∨
      (s.accepts .upload = true ∧ chunkInvalid s.bytesSent len.toNat s.bytesExpected = false ∧
        execUlchk len s = .next (s.uploadChunk len.toNat)) := by
  cases ha : s.accepts .upload
  · exact .inl ⟨rfl, by simp [execUlchk, ha, s.raiseFail_pure]⟩
  · cases hc : chunkInvalid s.bytesSent len.toNat s.bytesExpected
    · exact .inr (.inr ⟨rfl, rfl, by simp [execUlchk, ha, hc]⟩)
    · exact .inr (.inl ⟨rfl, rfl, by simp [execUlchk, ha, hc, State.raiseFail_invalidChunk]⟩)

/-- An accepted chunk's counter fits in 32 bits (R151). -/
theorem toNat_chunk_counter {count expected : Word} {len : Nat} (h : chunkInvalid count len expected = false) :
    (BitVec.ofNat 32 (count.toNat + len)).toNat = count.toNat + len ∧ 0 < len ∧ count.toNat + len ≤ expected.toNat := by
  have hn : ¬ (len = 0 ∨ expected.toNat < count.toNat + len) := fun hc => by
    simp [(chunkInvalid_iff count len expected).mpr hc] at h
  have he := expected.isLt
  refine ⟨?_, by omega, by omega⟩
  rw [BitVec.toNat_ofNat, Nat.mod_eq_of_lt (by omega)]

/-- Which of the four checks fails decides the reason; a packet that passes them all has these fields (R133, R137). -/
theorem State.packetFailure_none_iff (ty : Word) (s : State) :
    s.packetFailure ty = none ↔
      s.pktHeader = magic ∧ s.pktTypeField = ty ∧ s.pktLength.toNat ≤ s.cfg.pktCapacity - headerSize ∧
        s.payloadCrc.setWidth 32 = s.pktCrcField := by
  unfold State.packetFailure
  split
  · simp_all
  · split
    · simp_all
    · split
      · simp_all
      · split <;> simp_all

theorem State.packetFailure_header_iff (ty : Word) (s : State) :
    s.packetFailure ty = some .headerMismatch ↔ s.pktHeader ≠ magic := by
  unfold State.packetFailure
  split
  · simp_all
  · split
    · simp_all
    · split
      · simp_all
      · split <;> simp_all

theorem State.packetFailure_type_iff (ty : Word) (s : State) :
    s.packetFailure ty = some .typeMismatch ↔ s.pktHeader = magic ∧ s.pktTypeField ≠ ty := by
  unfold State.packetFailure
  split
  · simp_all
  · split
    · simp_all
    · split
      · simp_all
      · split <;> simp_all

theorem State.packetFailure_length_iff (ty : Word) (s : State) :
    s.packetFailure ty = some .lengthTooLarge ↔
      s.pktHeader = magic ∧ s.pktTypeField = ty ∧ s.cfg.pktCapacity - headerSize < s.pktLength.toNat := by
  unfold State.packetFailure
  split
  · simp_all
  · split
    · simp_all
    · split
      · simp_all
      · rename_i h
        split <;> simp [h]

theorem State.packetFailure_crc_iff (ty : Word) (s : State) :
    s.packetFailure ty = some .crcMismatch ↔
      s.pktHeader = magic ∧ s.pktTypeField = ty ∧ s.pktLength.toNat ≤ s.cfg.pktCapacity - headerSize ∧
        s.payloadCrc.setWidth 32 ≠ s.pktCrcField := by
  unfold State.packetFailure
  split
  · simp_all
  · split
    · simp_all
    · split
      · simp_all
      · split <;> simp_all

/-- A packet that fails does so for one of the four reasons of `PARSE` (R212). -/
theorem State.packetFailure_some {ty : Word} {s : State} {r : Reason} (h : s.packetFailure ty = some r) :
    r = .headerMismatch ∨ r = .typeMismatch ∨ r = .lengthTooLarge ∨ r = .crcMismatch := by
  unfold State.packetFailure at h
  split at h
  · simp_all
  · split at h
    · simp_all
    · split at h
      · simp_all
      · split at h
        · simp_all
        · cases h

/-- What `execParse` answers (R133, R134). -/
theorem execParse_cases (ty : Word) (s : State) :
    (∃ r, s.packetFailure ty = some r ∧ execParse ty s = .next (s.raiseFail r)) ∨
      (s.packetFailure ty = none ∧
        execParse ty s = .next ((s.setPktResult .valid s.pktLength ty).respondOkay s.pktLength)) := by
  cases h : s.packetFailure ty with
  | none => exact .inr ⟨rfl, by simp [execParse, h]⟩
  | some r => exact .inl ⟨r, rfl, by simp [execParse, h]⟩

/-! ## Everything a command can do -/

/-- Every outcome of every command, with the checks that led to it: the one inversion of `exec` (`exec_outcome`), from which
every statement about what commands change follows by cases. -/
inductive ExecOutcome (s : State) : Instr → State → Prop
  | crcseed (seed : Half) :
      ExecOutcome s (.crcseed seed) ({ s with crc := seed }.respondOkay (seed.setWidth 32))
  | crcbyte (byte : Byte) :
      ExecOutcome s (.crcbyte byte) ({ s with crc := crcStep s.crc byte }.respondOkay ((crcStep s.crc byte).setWidth 32))
  | pbwOutside (off : Word) (byte : Byte) (h : s.cfg.pktCapacity ≤ off.toNat) :
      ExecOutcome s (.pbw off byte) (s.respond (.fail .badAddress))
  | pbwStored (off : Word) (byte : Byte) (h : off.toNat < s.cfg.pktCapacity) :
      ExecOutcome s (.pbw off byte) (((s.storePkt off.toNat byte).setPktResult .notValidated 0#32 0#32).respondOkay 0#32)
  | parseFailed (ty : Word) (r : Reason) (h : s.packetFailure ty = some r) :
      ExecOutcome s (.parse ty) (s.raiseFail r)
  | parseValid (ty : Word) (h : s.packetFailure ty = none) :
      ExecOutcome s (.parse ty) ((s.setPktResult .valid s.pktLength ty).respondOkay s.pktLength)
  | dlannZero : ExecOutcome s (.dlann 0#32) (s.respond (.fail .invalidSize))
  | dlannTooLarge (size : Word) (h0 : size ≠ 0#32) (h : s.cfg.fbBufSize < size.toNat) :
      ExecOutcome s (.dlann size) (s.respond (.fail .sizeTooLarge))
  | dlannAccepted (size : Word) (h0 : size ≠ 0#32) (h : size.toNat ≤ s.cfg.fbBufSize) :
      ExecOutcome s (.dlann size) ((s.announce .download size).respond (.size size))
  | ulannZero : ExecOutcome s (.ulann 0#32) (s.respond (.fail .invalidSize))
  | ulannTooLarge (size : Word) (h0 : size ≠ 0#32) (h : s.cfg.ulSrcSize < size.toNat) :
      ExecOutcome s (.ulann size) (s.respond (.fail .sizeTooLarge))
  | ulannAccepted (size : Word) (h0 : size ≠ 0#32) (h : size.toNat ≤ s.cfg.ulSrcSize) :
      ExecOutcome s (.ulann size) ((s.announce .upload size).respond (.size size))
  | dlchkBadState (data : List Byte) (h : s.accepts .download = false) :
      ExecOutcome s (.dlchk data) (s.respond (.fail .badState))
  | dlchkInvalid (data : List Byte) (h : s.accepts .download = true)
      (hc : chunkInvalid s.bytesReceived data.length s.bytesExpected = true) :
      ExecOutcome s (.dlchk data) ((s.setPhase .aborted).respond (.fail .invalidChunk))
  | dlchkAccepted (data : List Byte) (h : s.accepts .download = true)
      (hc : chunkInvalid s.bytesReceived data.length s.bytesExpected = false) :
      ExecOutcome s (.dlchk data) (s.downloadChunk data)
  | ulchkBadState (len : Word) (h : s.accepts .upload = false) :
      ExecOutcome s (.ulchk len) (s.respond (.fail .badState))
  | ulchkInvalid (len : Word) (h : s.accepts .upload = true)
      (hc : chunkInvalid s.bytesSent len.toNat s.bytesExpected = true) :
      ExecOutcome s (.ulchk len) ((s.setPhase .aborted).respond (.fail .invalidChunk))
  | ulchkAccepted (len : Word) (h : s.accepts .upload = true)
      (hc : chunkInvalid s.bytesSent len.toNat s.bytesExpected = false) :
      ExecOutcome s (.ulchk len) (s.uploadChunk len.toNat)
  | dlendBadState (h : s.accepts .download = false) : ExecOutcome s .dlend (s.respond (.fail .badState))
  | dlendAccepted (h : s.accepts .download = true) :
      ExecOutcome s .dlend ({ s.finishTransfer with imageSize := s.bytesReceived }.respondOkay s.bytesReceived)
  | ulendBadState (h : s.accepts .upload = false) : ExecOutcome s .ulend (s.respond (.fail .badState))
  | ulendAccepted (h : s.accepts .upload = true) : ExecOutcome s .ulend (s.finishTransfer.respondOkay s.bytesSent)
  | rdregNoSuch (id : Byte) (h : RegName.ofId? id = none) : ExecOutcome s (.rdreg id) (s.respond (.fail .badAddress))
  | rdregRead (id : Byte) (r : RegName) (h : RegName.ofId? id = some r) :
      ExecOutcome s (.rdreg id) (s.respondOkay (s.readReg r))
  | mrdNoSpace (space : Byte) (off : Word) (h : Space.ofId? space = none) :
      ExecOutcome s (.mrd space off) (s.respond (.fail .badAddress))
  | mrdOutside (space : Byte) (off : Word) (sp : Space) (h : Space.ofId? space = some sp) (ho : s.spaceSize sp ≤ off.toNat) :
      ExecOutcome s (.mrd space off) (s.respond (.fail .badAddress))
  | mrdRead (space : Byte) (off : Word) (sp : Space) (h : Space.ofId? space = some sp) (ho : off.toNat < s.spaceSize sp) :
      ExecOutcome s (.mrd space off) (s.respondOkay ((s.read sp off.toNat).setWidth 32))
  | srst : ExecOutcome s .srst (s.resetRegisters.respondOkay 0#32)

/-- If a command answers `next t`, then `t` is one of the outcomes above. -/
theorem exec_outcome {i : Instr} {s t : State} (h : exec i s = .next t) : ExecOutcome s i t := by
  cases i with
  | crcseed x => injection h with h; subst h; exact .crcseed x
  | crcbyte x => injection h with h; subst h; exact .crcbyte x
  | pbw off b =>
    simp only [exec, execPbw] at h; injection h with h; subst h
    split
    · exact .pbwOutside off b ‹_›
    · exact .pbwStored off b (by omega)
  | parse ty =>
    simp only [exec] at h
    rcases execParse_cases ty s with ⟨r, hr, hh⟩ | ⟨hr, hh⟩ <;> rw [hh] at h <;> injection h with h <;> subst h
    · exact .parseFailed ty r hr
    · exact .parseValid ty hr
  | dlann n =>
    simp only [exec, execDlann] at h; injection h with h; subst h
    rcases State.announceChecked_cases .download s.cfg.fbBufSize n s with ⟨rfl, hh⟩ | ⟨h1, h2, hh⟩ | ⟨h1, h2, hh⟩ <;> rw [hh]
    · exact .dlannZero
    · exact .dlannTooLarge n h1 h2
    · exact .dlannAccepted n h1 h2
  | ulann n =>
    simp only [exec, execUlann] at h; injection h with h; subst h
    rcases State.announceChecked_cases .upload s.cfg.ulSrcSize n s with ⟨rfl, hh⟩ | ⟨h1, h2, hh⟩ | ⟨h1, h2, hh⟩ <;> rw [hh]
    · exact .ulannZero
    · exact .ulannTooLarge n h1 h2
    · exact .ulannAccepted n h1 h2
  | dlchk d =>
    simp only [exec] at h
    rcases execDlchk_cases d s with ⟨h1, hh⟩ | ⟨h1, h2, hh⟩ | ⟨h1, h2, hh⟩ <;> rw [hh] at h <;> injection h with h <;> subst h
    · exact .dlchkBadState d h1
    · exact .dlchkInvalid d h1 h2
    · exact .dlchkAccepted d h1 h2
  | ulchk n =>
    simp only [exec] at h
    rcases execUlchk_cases n s with ⟨h1, hh⟩ | ⟨h1, h2, hh⟩ | ⟨h1, h2, hh⟩ <;> rw [hh] at h <;> injection h with h <;> subst h
    · exact .ulchkBadState n h1
    · exact .ulchkInvalid n h1 h2
    · exact .ulchkAccepted n h1 h2
  | dlend =>
    simp only [exec, execDlend] at h; injection h with h; subst h
    split
    · exact .dlendBadState (by simp_all)
    · exact .dlendAccepted (by simp_all)
  | ulend =>
    simp only [exec, execUlend] at h; injection h with h; subst h
    split
    · exact .ulendBadState (by simp_all)
    · exact .ulendAccepted (by simp_all)
  | rdreg id =>
    simp only [exec, execRdreg] at h; injection h with h; subst h
    split
    · exact .rdregRead id _ ‹_›
    · exact .rdregNoSuch id ‹_›
  | mrd sp off =>
    simp only [exec, execMrd] at h; injection h with h; subst h
    split
    · split
      · exact .mrdOutside sp off _ ‹_› ‹_›
      · exact .mrdRead sp off _ ‹_› (by omega)
    · exact .mrdNoSpace sp off ‹_›
  | srst => injection h with h; subst h; exact .srst

/-! ## Which fields the framer and the CRC see -/

/-- The header fields depend on PKT's lists and the epoch alone. -/
theorem State.le32_congr {s t : State} (hm : t.pkt = s.pkt) (he : t.epoch = s.epoch) (off : Nat) : t.le32 off = s.le32 off := by
  simp [State.le32, State.readBytes_congr (sp := .pkt) (s := s) (t := t) hm he]

theorem State.le32_ext {s t : State} {off : Nat} (h : ∀ k < 4, t.read .pkt (off + k) = s.read .pkt (off + k)) :
    t.le32 off = s.le32 off := by
  simp [State.le32, State.readBytes_ext h]

/-- The checks of a packet see its fields, the CRC of its payload and the parameters alone. -/
theorem State.packetFailure_congr {s t : State} (ty : Word) (hh : t.pktHeader = s.pktHeader)
    (ht : t.pktTypeField = s.pktTypeField) (hl : t.pktLength = s.pktLength) (hc : t.pktCrcField = s.pktCrcField)
    (hp : t.payloadCrc = s.payloadCrc) (hg : t.cfg = s.cfg) : t.packetFailure ty = s.packetFailure ty := by
  unfold State.packetFailure
  rw [hh, ht, hl, hc, hp, hg]

/-! ## Events and the step -/

theorem State.nextEvent_command {s : State} {i : Instr} {rest : List Byte} (hr : s.resetPin = false)
    (hd : decode s.cmdPort = .command i rest) : s.nextEvent = .command i rest := by
  simp [State.nextEvent, hd, hr]

theorem State.nextEvent_illegal {s : State} {why : IllegalWord} {rest : List Byte} (hr : s.resetPin = false)
    (hd : decode s.cmdPort = .illegal why rest) : s.nextEvent = .illegal rest := by
  simp [State.nextEvent, hd, hr]

/-- Part of a command at the front of the port: the wait, or with the reset input asserted the case R244 leaves out. -/
theorem step_of_waiting {s : State} (hp : s.cmdPort ≠ []) (hd : decode s.cmdPort = .waiting) :
    step s = if s.resetPin then .refused .resetMidCommand else .fault .commandIncomplete := by
  cases hr : s.resetPin <;> simp [step, State.nextEvent, hd, hp, hr]

/-- What a step that answers a next state did: a command, an illegal word, or a hardware reset. -/
theorem step_next_cases {s t : State} (h : step s = .next t) :
    (∃ i rest, s.resetPin = false ∧ decode s.cmdPort = .command i rest ∧ exec i (s.takeCommand rest) = .next t) ∨
      (∃ why rest, s.resetPin = false ∧ decode s.cmdPort = .illegal why rest ∧
        t = (s.takeCommand rest).respond (.fail .illegalCommand)) ∨
      (s.resetPin = true ∧ t = s.hardwareReset) := by
  unfold step State.nextEvent at h
  cases hd : decode s.cmdPort with
  | command i rest =>
    cases hr : s.resetPin
    · left; exact ⟨i, rest, rfl, rfl, by simpa [hd, hr] using h⟩
    · right; right; simp [hd, hr] at h; exact ⟨rfl, h.symm⟩
  | illegal why rest =>
    cases hr : s.resetPin
    · right; left; simp [hd, hr] at h; exact ⟨why, rest, rfl, rfl, h.symm⟩
    · right; right; simp [hd, hr] at h; exact ⟨rfl, h.symm⟩
  | waiting =>
    cases hr : s.resetPin <;> cases hp : s.cmdPort.isEmpty <;> simp [hd, hr, hp] at h
    right; right; exact ⟨rfl, h.symm⟩

/-! ## Runs -/

theorem runCommands_cons_next {i : Instr} {is : List Instr} {s t : State} (h : exec i s = .next t) :
    runCommands (i :: is) s = runCommands is t := by
  simp [runCommands, h]

/-- What each command of a run keeps, the run keeps. -/
theorem runCommands_keeps {P : State → Prop} {is : List Instr} (hk : ∀ i ∈ is, ∀ s t, P s → exec i s = .next t → P t)
    {s t : State} (hs : P s) (h : runCommands is s = .next t) : P t := by
  induction is generalizing s with
  | nil => simp only [runCommands, Host.Outcome.next.injEq] at h; exact h ▸ hs
  | cons i is ih =>
    simp only [runCommands] at h
    split at h
    · exact ih (fun j hj => hk j (List.mem_cons_of_mem _ hj)) (hk i List.mem_cons_self _ _ hs ‹_›) h
    · cases h
    · cases h

theorem runCommands_append_next {is js : List Instr} {s t : State} (h : runCommands is s = .next t) :
    runCommands (is ++ js) s = runCommands js t := by
  induction is generalizing s with
  | nil => simp only [runCommands, Host.Outcome.next.injEq] at h; simp [h]
  | cons i is ih =>
    simp only [List.cons_append, runCommands] at h ⊢
    split at h
    · simp_all
    · cases h
    · cases h

end Sys2Proof.Machine
end

