-- ==== Sys2Proof/Laws/PerInstr.lean ====
section
/-! SUPPORT. Per-instruction family `EncodeLength`: "8 bytes for every command but `DLCHK`, `8 + len` bytes for `DLCHK`"
(spec/30_encoding.md R95). One lemma per constructor. -/

namespace Sys2Proof.Laws.EncodeLength

/-- The length of a command is known from its first word. -/
def Statement (i : Instr) : Prop :=
  (encode i).length = match i with
    | .dlchk data => 8 + data.length
    | .crcseed _ => 8
    | .crcbyte _ => 8
    | .pbw _ _ => 8
    | .parse _ => 8
    | .dlann _ => 8
    | .dlend => 8
    | .ulann _ => 8
    | .ulchk _ => 8
    | .ulend => 8
    | .rdreg _ => 8
    | .mrd _ _ => 8
    | .srst => 8

theorem crcseed (seed : Half) : Statement (.crcseed seed) := encode_length _
theorem crcbyte (byte : Byte) : Statement (.crcbyte byte) := encode_length _
theorem pbw (off : Word) (byte : Byte) : Statement (.pbw off byte) := encode_length _
theorem parse (expectedType : Word) : Statement (.parse expectedType) := encode_length _
theorem dlann (size : Word) : Statement (.dlann size) := encode_length _
theorem dlchk (data : List Byte) : Statement (.dlchk data) := encode_length _
theorem dlend : Statement .dlend := encode_length _
theorem ulann (size : Word) : Statement (.ulann size) := encode_length _
theorem ulchk (len : Word) : Statement (.ulchk len) := encode_length _
theorem ulend : Statement .ulend := encode_length _
theorem rdreg (id : Byte) : Statement (.rdreg id) := encode_length _
theorem mrd (space : Byte) (off : Word) : Statement (.mrd space off) := encode_length _
theorem srst : Statement .srst := encode_length _

end Sys2Proof.Laws.EncodeLength
end

