-- ==== Sys2Proof/Tests/Slice0.lean ====
section
/-! SUPPORT. Tests and witnesses. Expected results come from spec/95_test_vectors.md (the ids V-...) and from the words of
spec/30_encoding.md R82 and R91, none from the model. The parameters are those of spec/95_test_vectors.md. After the tests, for
every statement with hypotheses, a theorem witness_<what> that meets them. -/

-- The kernel's evaluations one after the other, not each in a thread of its own: they need less memory so.
set_option Elab.async false

namespace Sys2Proof.Tests

open Sys2Proof Sys2Proof.Machine

/-! ## Small states -/

/-- The reset state with the parameters of spec/95_test_vectors.md. -/
def base : State := { State.reset with cfg := ⟨64, 16, 16, 4⟩ }

/-- The base packet `B` (S7): header, type 1, length 6, CRC 0x1849, "ABC123". -/
def packetB : Memory :=
  [(0, 0x50#8), (1, 0x47#8), (2, 0x76#8), (3, 0x31#8), (4, 1#8), (5, 0#8), (6, 0#8), (7, 0#8), (8, 6#8), (9, 0#8),
    (10, 0#8), (11, 0#8), (12, 0x49#8), (13, 0x18#8), (14, 0#8), (15, 0#8), (16, 0x41#8), (17, 0x42#8), (18, 0x43#8),
    (19, 0x31#8), (20, 0x32#8), (21, 0x33#8)]

/-- PKT = B. -/
def inB : State := { base with pkt := packetB }

/-- B with the bytes of some offsets replaced. -/
def inBWith (edits : List (Nat × Byte)) : State :=
  { base with pkt := edits.foldl (fun m e => m.write e.1 e.2) packetB }

/-- B, after V-FRM-1. -/
def validB : State := { inB with pktStatus := .valid, pktLen := 6#32, pktType := 1#32 }

/-- A state of unit FBT in the columns of V-FBT: phase, direction, expected, received, sent, image size; SRC is the sixteen
digits of the upload vectors. -/
def fbt (ph : Phase) (dir : Dir) (exp rcv snt img : Nat) : State :=
  { base with
    fbPhase := ph, fbDir := dir, bytesExpected := BitVec.ofNat 32 exp, bytesReceived := BitVec.ofNat 32 rcv
    bytesSent := BitVec.ofNat 32 snt, imageSize := BitVec.ofNat 32 img
    src := [(0, 0x30#8), (1, 0x31#8), (2, 0x32#8), (3, 0x33#8), (4, 0x34#8), (5, 0x35#8), (6, 0x36#8), (7, 0x37#8)] }

/-- The state after one command, if there is one. -/
def after (i : Instr) (s : State) : Option State :=
  match exec i s with
  | .next t => some t
  | .fault _ => none
  | .refused _ => none

/-- The response words and the columns `ph dir exp rcv snt img` after one command. -/
def afterFbt (i : Instr) (s : State) : Option (List Frame × Phase × Dir × List Nat) :=
  (after i s).map fun t =>
    (t.rspPort.map Response.word, t.fbPhase, t.fbDir,
      [t.bytesExpected.toNat, t.bytesReceived.toNat, t.bytesSent.toNat, t.imageSize.toNat])

/-- The response words and the framer's registers after one command. -/
def afterFrm (i : Instr) (s : State) : Option (List Frame × PktStatus × Nat × Nat) :=
  (after i s).map fun t => (t.rspPort.map Response.word, t.pktStatus, t.pktLen.toNat, t.pktType.toNat)

/-- Whether a step answers a next state. -/
def goesOn (o : Host.Outcome State Fault Refusal) : Bool :=
  match o with
  | .next _ => true
  | .fault _ => false
  | .refused _ => false

/-! ## WellFormed -/

/-- Data of 2^32 bytes has no `len` (R88): the one ill-formed command. -/
theorem test_wellFormed_refuses_long_data : ¬ Instr.WellFormed (.dlchk (List.replicate (2 ^ 32) 0#8)) := by
  show ¬ (List.replicate (2 ^ 32) 0#8).length < 2 ^ 32
  rw [List.length_replicate]
  exact Nat.lt_irrefl _

theorem test_wellFormed_empty_data : Instr.WellFormed (.dlchk []) := by decide

/-! ## Decoding: each row's word, its bits written out from R82 and R91 -/

theorem test_decode_crcseed : decodeTableWord 64 0x100000000000FFFF = some (.crcseed 0xFFFF#16) := by decide +kernel
theorem test_decode_crcbyte : decodeTableWord 64 0x1100000000000041 = some (.crcbyte 0x41#8) := by decide +kernel
theorem test_decode_pbw : decodeTableWord 64 0x20000041FFFFFFFF = some (.pbw 0xFFFFFFFF#32 0x41#8) := by decide +kernel
theorem test_decode_parse : decodeTableWord 64 0x2100000000000001 = some (.parse 1#32) := by decide +kernel
theorem test_decode_dlann : decodeTableWord 64 0x30000000FFFFFFFF = some (.dlann 0xFFFFFFFF#32) := by decide +kernel
theorem test_decode_dlend : decodeTableWord 64 0x3200000000000000 = some .dlend := by decide +kernel
theorem test_decode_ulann : decodeTableWord 64 0x3800000000000011 = some (.ulann 17#32) := by decide +kernel
theorem test_decode_ulchk : decodeTableWord 64 0x3900000000000004 = some (.ulchk 4#32) := by decide +kernel
theorem test_decode_ulend : decodeTableWord 64 0x3A00000000000000 = some .ulend := by decide +kernel
theorem test_decode_rdreg : decodeTableWord 64 0x400000FF00000000 = some (.rdreg 0xFF#8) := by decide +kernel
theorem test_decode_mrd : decodeTableWord 64 0x4100000100000007 = some (.mrd 1#8 7#32) := by decide +kernel
theorem test_decode_srst : decodeTableWord 64 0x7F00000000000000 = some .srst := by decide +kernel

/-- V-ENC-3: `DLCHK "FGH"`, 11 bytes in all, and a byte after it. -/
theorem test_decode_dlchk :
    decode [0x03#8, 0#8, 0#8, 0#8, 0#8, 0#8, 0#8, 0x31#8, 0x46#8, 0x47#8, 0x48#8, 0xAA#8] =
      .command (.dlchk [0x46#8, 0x47#8, 0x48#8]) [0xAA#8] := by decide +kernel

/-- V-ENC-1: the bytes on the wire, opcode last. -/
theorem test_encode_crcseed :
    encode (.crcseed 0xFFFF#16) = [0xFF#8, 0xFF#8, 0#8, 0#8, 0#8, 0#8, 0#8, 0x10#8] := by decide +kernel

/-- V-ENC-4. -/
theorem test_encode_mrd : encode (.mrd 1#8 7#32) = [7#8, 0#8, 0#8, 0#8, 1#8, 0#8, 0#8, 0x41#8] := by decide +kernel

/-- V-ENC-5 to V-ENC-14: unassigned opcodes and set reserved bits. -/
theorem test_decode_illegal :
    [0x0, 0xFFFFFFFFFFFFFFFF, 0x1200000000000000, 0x7E00000000000000, 0x8000000000000000, 0x1000000000010000,
      0x1100000000000100, 0x2000010000000000, 0x2100000100000001, 0x3200000000000001, 0x7F00000000000001,
      0x4000000200000001, 0x4000010200000000].map (decodeTableWord 64) = List.replicate 13 none := by decide +kernel

/-- V-ENC-15: an illegal word with opcode 0x31 takes no data. -/
theorem test_decode_illegal_dlchk :
    decode [0x02#8, 0#8, 0#8, 0#8, 1#8, 0#8, 0#8, 0x31#8, 0xAA#8, 0xBB#8] =
      .illegal (.reservedBitSet .dlchk) [0xAA#8, 0xBB#8] := by decide +kernel

/-- R102: seven bytes, and a word whose data has not all come. -/
theorem test_decode_waits :
    decode [0#8, 0#8, 0#8, 0#8, 0#8, 0#8, 0x7F#8] = .waiting ∧
      decode [0x02#8, 0#8, 0#8, 0#8, 0#8, 0#8, 0#8, 0x31#8, 0xAA#8] = .waiting := by decide +kernel

/-! ## Responses (V-ENC-20 to V-ENC-25) -/

theorem test_response_words :
    (Response.okay 6#32 false []).word = 0x0100000000000006#64 ∧ (Response.okay 5#32 true []).word = 0x0100000100000005#64 ∧
      (Response.size 0xABCDEF#32).word = 0x0300000000ABCDEF#64 ∧ (Response.fail .crcMismatch).word = 0x0204000000000000#64 ∧
      (Response.fail .badState).word = 0x0222000000000000#64 := by decide

theorem test_response_bytes :
    (Response.okay 4#32 true [0x30#8, 0x31#8, 0x32#8, 0x33#8]).bytes =
      [4#8, 0#8, 0#8, 0#8, 1#8, 0#8, 0#8, 1#8, 0x30#8, 0x31#8, 0x32#8, 0x33#8] := by decide +kernel

theorem test_response_text :
    (Response.size 1024#32).text = ['D', 'A', 'T', 'A', '0', '0', '0', '0', '0', '4', '0', '0'] ∧
      (Response.size 0xABCDEF#32).text = ['D', 'A', 'T', 'A', '0', '0', 'a', 'b', 'c', 'd', 'e', 'f'] ∧
      (Response.okay 5#32 true []).text = ['O', 'K', 'A', 'Y'] := by decide +kernel

/-! ## The assembler (R97 to R100) -/

theorem test_assemble_commands :
    assembleLine? "CRCSEED 0".toList = some [.crcseed 0#16] ∧ assembleLine? "CRCBYTE 0x31".toList = some [.crcbyte 0x31#8] ∧
      assembleLine? "PBW 0, 0x50 ; first".toList = some [.pbw 0#32 0x50#8] ∧
      assembleLine? "DLANN 1024".toList = some [.dlann 1024#32] ∧ assembleLine? "MRD 1, 0".toList = some [.mrd 1#8 0#32] ∧
      assembleLine? "DLEND".toList = some [.dlend] := by decide +kernel

theorem test_assemble_data :
    assembleLine? "DLCHK [0x41, 0x42]".toList = some [.dlchk [0x41#8, 0x42#8]] ∧
      assembleLine? "DLCHK \"AB\"".toList = some [.dlchk [0x41#8, 0x42#8]] := by decide +kernel

/-- P2 of spec/95_test_vectors.md: `MKPKT 1, "ABC123"` is the 22 bytes of B. -/
theorem test_assemble_mkpkt :
    assembleLine? "MKPKT 1, \"ABC123\"".toList =
      some (packetB.map fun c => Instr.pbw (BitVec.ofNat 32 c.1) c.2) := by decide +kernel

theorem test_assemble_text :
    assembleLine? "download:00000400".toList = some [.dlann 1024#32] ∧
      assembleLine? "download:ffffffff".toList = some [.dlann 0xFFFFFFFF#32] ∧
      assembleLine? "download:".toList = none ∧ assembleLine? "download:0x400".toList = none ∧
      assembleLine? "download:123456789".toList = none ∧ assembleLine? "download:4g".toList = none ∧
      assembleLine? "oem ramdump:10".toList = some [.ulann 16#32] ∧ assembleLine? "oem ramdump".toList = none := by
  decide +kernel

/-- R98 with log entry 11: 2^32 bytes are the most that `LOADPKT` takes. -/
theorem test_loadLine_limit : loadLine? (List.replicate (2 ^ 32 + 1) 0#8) = none := by
  rw [loadLine?, if_neg]
  rw [List.length_replicate]
  exact Nat.not_succ_le_self _

/-! ## Unit CRC -/

/-- V-CRC-2, 3, 6, 7, 8d. -/
theorem test_crcStep :
    crcStep 0x0000#16 0x01#8 = 0x1021#16 ∧ crcStep 0x0000#16 0x80#8 = 0x9188#16 ∧ crcStep 0xFFFF#16 0x00#8 = 0xE1F0#16 ∧
      crcStep 0xFFFF#16 0xFF#8 = 0xFF00#16 ∧ crcStep 0x1234#16 0x56#8 = 0x3C40#16 := by decide +kernel

/-- V-CRC-13, V-CRC-14. -/
theorem test_crc16_digits :
    crc16 0x0000#16 [0x31#8, 0x32#8, 0x33#8, 0x34#8, 0x35#8, 0x36#8, 0x37#8, 0x38#8, 0x39#8] = 0x31C3#16 ∧
      crc16 0xFFFF#16 [0x31#8, 0x32#8, 0x33#8, 0x34#8, 0x35#8, 0x36#8, 0x37#8, 0x38#8, 0x39#8] = 0x29B1#16 := by
  decide +kernel

/-- V-CRC-9, 10, 20b, 22. -/
theorem test_crc16_pairs :
    crc16 0#16 [0x41#8, 0x42#8] = 0x567B#16 ∧ crc16 0#16 [0x42#8, 0x41#8] = 0x334B#16 ∧
      crc16 0#16 [0x41#8, 0x42#8, 0x43#8, 0x31#8, 0x32#8, 0x33#8, 0x00#8] = 0xDA39#16 ∧
      crc16 0#16 [0x40#8, 0x52#8, 0x62#8] = 0x3994#16 := by decide +kernel

/-- V-CRC-31. -/
theorem test_crcseed :
    (after (.crcseed 0xFFFF#16) base).map (fun t => (t.crc, t.rspPort.map Response.word)) =
      some (0xFFFF#16, [0x010000000000FFFF#64]) := by decide

/-- V-CRC-33. -/
theorem test_crcbyte :
    (after (.crcbyte 0x42#8) { base with crc := 0x58E5#16 }).map (fun t => (t.crc, t.rspPort.map Response.word)) =
      some (0x567B#16, [0x010000000000567B#64]) := by decide +kernel

/-! ## Unit FRM -/

/-- V-FRM-12a: a write of the same value withdraws the validation. -/
theorem test_pbw_withdraws :
    afterFrm (.pbw 16#32 0x41#8) validB = some ([0x0100000000000000#64], .notValidated, 0, 0) := by decide +kernel

/-- V-FRM-13: a refused write does not. -/
theorem test_pbw_outside :
    afterFrm (.pbw 64#32 0x00#8) validB = some ([0x0223000000000000#64], .valid, 6, 1) := by decide +kernel

/-- V-FRM-1. -/
theorem test_parse_valid :
    afterFrm (.parse 1#32) inB = some ([0x0100000000000006#64], .valid, 6, 1) := by decide +kernel

/-- V-FRM-15. -/
theorem test_parse_withdraws :
    afterFrm (.parse 3#32) validB = some ([0x0202000000000000#64], .typeMismatch, 0, 0) := by decide +kernel

/-- V-FRM-2, 2a, 2b, 3a, 4, 4a. -/
theorem test_packetFailure_fields :
    (inBWith [(0, 0x51#8)]).packetFailure 1#32 = some .headerMismatch ∧
      (inBWith [(3, 0x30#8)]).packetFailure 1#32 = some .headerMismatch ∧
      (inBWith [(0, 0x31#8), (1, 0x76#8), (2, 0x47#8), (3, 0x50#8)]).packetFailure 1#32 = some .headerMismatch ∧
      (inBWith [(7, 0x01#8)]).packetFailure 1#32 = some .typeMismatch ∧
      (inBWith [(8, 0x31#8)]).packetFailure 1#32 = some .lengthTooLarge ∧
      (inBWith [(11, 0x80#8)]).packetFailure 1#32 = some .lengthTooLarge := by decide +kernel

/-- V-FRM-6, 7, 7a. -/
theorem test_packetFailure_crc :
    (inBWith [(21, 0x34#8)]).packetFailure 1#32 = some .crcMismatch ∧
      (inBWith [(14, 0x01#8)]).packetFailure 1#32 = some .crcMismatch ∧
      (inBWith [(12, 0x18#8), (13, 0x49#8)]).packetFailure 1#32 = some .crcMismatch := by decide +kernel

/-- V-FRM-11, 11a, 11b: the first fault in order. -/
theorem test_packetFailure_order :
    (inBWith [(0, 0x51#8), (4, 0x02#8), (8, 0xFF#8), (12, 0x00#8)]).packetFailure 1#32 = some .headerMismatch ∧
      (inBWith [(4, 0x02#8), (8, 0xFF#8)]).packetFailure 1#32 = some .typeMismatch ∧
      (inBWith [(8, 0xFF#8), (12, 0x00#8)]).packetFailure 1#32 = some .lengthTooLarge := by decide +kernel

/-- V-FRM-9, V-FRM-10, at capacity 22: the length that fills PKT validates, one more does not. -/
theorem test_packetFailure_capacity :
    ({ inB with cfg := ⟨22, 16, 16, 4⟩ } : State).packetFailure 1#32 = none ∧
      ({ inB with cfg := ⟨21, 16, 16, 4⟩ } : State).packetFailure 1#32 = some .lengthTooLarge := by decide +kernel

/-! ## Unit FBT -/

/-- V-FBT-2. -/
theorem test_dlann_capacity :
    afterFbt (.dlann 16#32) base = some ([0x0300000000000010#64], .announced, .download, [16, 0, 0, 0]) := by decide

/-- V-FBT-3. -/
theorem test_dlann_too_large :
    afterFbt (.dlann 17#32) base = some ([0x0212000000000000#64], .idle, .download, [0, 0, 0, 0]) := by decide

/-- V-FBT-30: the chunk, the counter, the progress flag and the bytes of STG. -/
theorem test_dlchk_first :
    (after (.dlchk [0x41#8, 0x42#8, 0x43#8, 0x44#8, 0x45#8]) (fbt .announced .download 8 0 0 0)).map
        (fun t => (t.rspPort.map Response.word, t.bytesReceived, t.fbPhase, t.stg)) =
      some ([0x0100000100000005#64], 5#32, .transferring,
        [(0, 0x41#8), (1, 0x42#8), (2, 0x43#8), (3, 0x44#8), (4, 0x45#8)]) := by decide +kernel

/-- V-FBT-32. -/
theorem test_dlchk_past_end :
    afterFbt (.dlchk [0x57#8, 0x58#8, 0x59#8, 0x5A#8]) (fbt .transferring .download 8 5 0 0) =
      some ([0x0213000000000000#64], .aborted, .download, [8, 5, 0, 0]) := by decide

/-- V-FBT-34: no wrap at 2^32 (R151). -/
theorem test_chunkInvalid_no_wrap : chunkInvalid 5#32 4294967295 8#32 = true := by decide

/-- V-FBT-35, 36, 37. -/
theorem test_progressFlag :
    progressFlag 4 0 3 = false ∧ progressFlag 4 3 4 = true ∧ progressFlag 4 0 13 = true := by decide

/-- V-FBT-43: early completion. -/
theorem test_dlend :
    afterFbt .dlend (fbt .transferring .download 8 5 0 0) =
      some ([0x0100000000000005#64], .complete, .download, [0, 0, 0, 5]) := by decide

/-- V-FBT-48: wrong direction. -/
theorem test_dlend_wrong_direction :
    afterFbt .dlend (fbt .transferring .upload 6 0 4 0) =
      some ([0x0222000000000000#64], .transferring, .upload, [6, 0, 4, 0]) := by decide

/-- V-FBT-7: an announce replaces a live download. -/
theorem test_ulann_replaces :
    afterFbt (.ulann 6#32) (fbt .transferring .download 8 5 0 0) =
      some ([0x0300000000000006#64], .announced, .upload, [6, 0, 0, 0]) := by decide

/-- V-FBT-13: each direction has its own bound. -/
theorem test_ulann_own_bound :
    afterFbt (.ulann 32#32) { base with cfg := ⟨64, 16, 32, 4⟩ } =
      some ([0x0300000000000020#64], .announced, .upload, [32, 0, 0, 0]) := by decide

/-- V-FBT-51: the data of the response starts at `bytes_sent`. -/
theorem test_ulchk :
    (after (.ulchk 2#32) (fbt .transferring .upload 6 0 4 0)).map (fun t => (t.rspPort, t.bytesSent)) =
      some ([.okay 6#32 false [0x34#8, 0x35#8]], 6#32) := by decide +kernel

/-- V-FBT-52. -/
theorem test_ulchk_past_end :
    afterFbt (.ulchk 4#32) (fbt .transferring .upload 6 0 4 0) =
      some ([0x0213000000000000#64], .aborted, .upload, [6, 0, 4, 0]) := by decide

/-- V-FBT-56: `image_size` is not touched. -/
theorem test_ulend :
    afterFbt .ulend (fbt .transferring .upload 6 0 6 5) =
      some ([0x0100000000000006#64], .complete, .upload, [0, 0, 0, 5]) := by decide

/-! ## Observation and reset -/

/-- V-SYS-5. -/
theorem test_rdreg_crc :
    (after (.rdreg 0x00#8) { base with crc := 0x58E5#16 }).map (·.rspPort.map Response.word) =
      some [0x01000000000058E5#64] := by decide

/-- V-SYS-4. -/
theorem test_rdreg_no_register :
    (after (.rdreg 0x14#8) base).map (·.rspPort.map Response.word) = some [0x0223000000000000#64] := by decide

/-- V-SYS-7. -/
theorem test_mrd : (after (.mrd 0#8 12#32) inB).map (·.rspPort) = some [.okay 0x49#32 false []] := by decide +kernel

/-- V-SYS-9. -/
theorem test_mrd_outside : (after (.mrd 1#8 16#32) inB).map (·.rspPort) = some [.fail .badAddress] := by decide

/-- V-SYS-12. -/
theorem test_srst :
    (after .srst { validB with crc := 0x58E5#16, fbPhase := .aborted, bytesExpected := 8#32, bytesReceived := 5#32
                               imageSize := 8#32 }).map (fun t => (t.registers, t.pkt, t.rspPort)) =
      some (State.reset.registers, packetB, [.okay 0#32 false []]) := by decide +kernel

/-! ## The step -/

/-- V-ENC-5: the all-zero word, answered and passed over; it meets the hypotheses about illegal words in FailuresArePrecise and
PhaseTransitionTable. -/
theorem test_step_illegal :
    step { base with cmdPort := List.replicate 8 0#8 ++ [0xAA#8] } =
      .next { base with cmdPort := [0xAA#8], rspPort := [.fail .illegalCommand] } := by rfl

/-- A word placed with `withFetchWord` is what the next step runs, from reset. -/
theorem test_withFetchWord_runs :
    goesOn (step (State.reset.withFetchWord 64 0x2100000000000003)) = true ∧
      goesOn (step (State.reset.withFetchWord 64 0x3100000000000002)) = true := by decide +kernel

/-- R243: with nothing presented, the block waits. -/
theorem test_step_waits : step State.reset = .fault .portEmpty := by rfl

/-! ## Witnesses

For every statement of Obligations.lean that has hypotheses, concrete states and operands that meet them together; for a
statement of several clauses, one for each clause at the boundary of its range. The tests above serve where a clause needs
only that a command answers. -/

/-- DecodeFollowsOpcodeMap: a word of each row, its operand bits all one, and a word of no row. -/
theorem witness_opcode_map :
    0x100000000000FFFF#64 &&& 0xFFFFFFFFFFFF0000#64 = 0x1000000000000000#64 ∧
      0x11000000000000FF#64 &&& 0xFFFFFFFFFFFFFF00#64 = 0x1100000000000000#64 ∧
      0x200000FFFFFFFFFF#64 &&& 0xFFFFFF0000000000#64 = 0x2000000000000000#64 ∧
      0x21000000FFFFFFFF#64 &&& 0xFFFFFFFF00000000#64 = 0x2100000000000000#64 ∧
      0x30000000FFFFFFFF#64 &&& 0xFFFFFFFF00000000#64 = 0x3000000000000000#64 ∧
      0x31000000FFFFFFFF#64 &&& 0xFFFFFFFF00000000#64 = 0x3100000000000000#64 ∧
      0x3200000000000000#64 &&& 0xFFFFFFFFFFFFFFFF#64 = 0x3200000000000000#64 ∧
      0x38000000FFFFFFFF#64 &&& 0xFFFFFFFF00000000#64 = 0x3800000000000000#64 ∧
      0x39000000FFFFFFFF#64 &&& 0xFFFFFFFF00000000#64 = 0x3900000000000000#64 ∧
      0x3A00000000000000#64 &&& 0xFFFFFFFFFFFFFFFF#64 = 0x3A00000000000000#64 ∧
      0x400000FF00000000#64 &&& 0xFFFFFF00FFFFFFFF#64 = 0x4000000000000000#64 ∧
      0x410000FFFFFFFFFF#64 &&& 0xFFFFFF0000000000#64 = 0x4100000000000000#64 ∧
      0x7F00000000000000#64 &&& 0xFFFFFFFFFFFFFFFF#64 = 0x7F00000000000000#64 ∧
      ∀ o : Opcode, 0x7F00000000000001#64 &&& o.maskBits ≠ o.matchBits := by
  refine ⟨rfl, rfl, rfl, rfl, rfl, rfl, rfl, rfl, rfl, rfl, rfl, rfl, rfl, fun o => ?_⟩
  cases o <;> decide

/-- DecodeOfEncode, CommandsAreTakenWhole: a well-formed `DLCHK`, presented with a byte after it. -/
theorem witness_encoded_command :
    Instr.WellFormed (.dlchk [0x41#8, 0x42#8]) ∧
      ({ base with cmdPort := encode (.dlchk [0x41#8, 0x42#8]) ++ [0x10#8] } : State).resetPin = false := by decide

/-- EncodeOfDecode, StepRunsDecodedCommand: bytes that decode to a command. -/
theorem witness_decoded_command :
    decode ({ base with cmdPort := [7#8, 0#8, 0#8, 0#8, 1#8, 0#8, 0#8, 0x41#8, 0x10#8] } : State).cmdPort =
        .command (.mrd 1#8 7#32) [0x10#8] ∧ base.resetPin = false := by decide +kernel

/-- IllegalWordIsAnsweredAndChangesNothing: a state with an illegal word on the port, an unassigned opcode, an assigned one
with its lowest reserved bit set. -/
theorem witness_illegal_word :
    ({ base with cmdPort := leBytes 8 (0x1000000000010000#64).toNat ++ [0xAA#8] } : State).resetPin = false ∧
      (∀ o : Opcode, 0x1000000000010000#64 &&& o.maskBits ≠ o.matchBits) ∧
      (∀ o : Opcode, wordOp 0x1200000000000000#64 ≠ o.code) ∧ wordOp 0x1000000000010000#64 = Opcode.crcseed.code ∧
      0x1000000000010000#64 &&& (Opcode.crcseed.maskBits &&& 0x00FFFFFFFFFFFFFF#64) ≠ 0#64 := by
  refine ⟨rfl, fun o => ?_, fun o => ?_, by decide, by decide⟩ <;> cases o <;> decide

/-- IncompleteCommandWaits, ResetMidCommandIsRefused, with the reset input released and asserted: seven bytes that begin no
legal command, a `DLCHK` that has all but the last byte of its data, one byte of a command and all but its last. -/
theorem witness_incomplete_command :
    (∀ pin : Bool,
      let s : State := { base with resetPin := pin, cmdPort := [0#8, 0#8, 0#8, 0#8, 0#8, 0#8, 0xFF#8] }
      s.resetPin = pin ∧ 0 < s.cmdPort.length ∧ s.cmdPort.length < 8 ∧ s.cmdPort ≠ [] ∧ decode s.cmdPort = .waiting) ∧
      [0x41#8].length < (2#32).toNat ∧
      (∀ pin : Bool,
        let s : State := { base with resetPin := pin, cmdPort := leBytes 8 (joinWord 0x31#8 0#24 2#32).toNat ++ [0x41#8] }
        s.resetPin = pin ∧ decode s.cmdPort = .waiting) ∧
      Instr.WellFormed (.dlchk [0x41#8, 0x42#8]) ∧ 0 < 1 ∧ 9 < (encode (.dlchk [0x41#8, 0x42#8])).length ∧
      ({ base with resetPin := true, cmdPort := (encode (.dlchk [0x41#8, 0x42#8])).take 9 } : State).resetPin = true := by
  decide +kernel

/-- ResponseWordFields: an accepted chunk whose response carries the progress flag and four data bytes. -/
theorem witness_progress :
    ∃ t, exec (.ulchk 4#32) (fbt .announced .upload 6 0 0 0) = .next t ∧
      Responds (fbt .announced .upload 6 0 0 0) t (.okay 4#32 true [0x30#8, 0x31#8, 0x32#8, 0x33#8]) :=
  ⟨_, rfl, by decide +kernel⟩

/-- TextCommandSizes: no digit, nine digits, and a character that is none. -/
theorem witness_text_sizes :
    ([] : List Char).length = 0 ∧ 8 < ['1', '2', '3', '4', '5', '6', '7', '8', '9'].length ∧
      ∃ c ∈ ['4', 'g'], c ∉ ['0', '1', '2', '3', '4', '5', '6', '7', '8', '9', 'A', 'B', 'C', 'D', 'E', 'F', 'a', 'b', 'c',
        'd', 'e', 'f'] := ⟨rfl, by decide, 'g', by decide, by decide⟩

/-- CrcIsLinear, CrcDetectsOneByteChange: V-CRC-16 and V-CRC-17. -/
theorem witness_crc :
    [0x41#8, 0x42#8].length = [0x42#8, 0x41#8].length ∧ 0x33#8 ≠ 0x34#8 ∧
      crc16 0#16 ([0x41#8, 0x42#8, 0x43#8, 0x31#8, 0x32#8] ++ 0x33#8 :: []) = 0x1849#16 ∧
      crc16 0#16 ([0x41#8, 0x42#8, 0x43#8, 0x31#8, 0x32#8] ++ 0x34#8 :: []) = 0x68AE#16 := by decide +kernel

/-- CommandSequenceComputesCrc16: bytes with a command of another unit between them. -/
theorem witness_crc_commands :
    ∀ i ∈ [Instr.crcbyte 0x41#8, .dlann 8#32, .crcbyte 0x42#8], i ≠ .srst ∧ ∀ x, i ≠ .crcseed x := by
  simp

/-- OtherUnitsIgnoreCrc: V-CRC-34. -/
theorem witness_other_unit :
    Instr.opcode (.parse 1#32) ∉ [Opcode.crcseed, .crcbyte, .srst] ∧ Instr.parse 1#32 ≠ .rdreg 0x00#8 ∧
      goesOn (exec (.parse 1#32) inB) = true := by decide +kernel

/-- PbwStoresOneByteAndWithdrawsValidation: the last offset of PKT, and the first past it. -/
theorem witness_pbw : (63#32).toNat < base.cfg.pktCapacity ∧ base.cfg.pktCapacity ≤ (64#32).toNat := by decide

/-- ParseComparesAllFourCrcBytes: a packet found valid, and B with byte 14 set (V-FRM-7). -/
theorem witness_parse_crc :
    (after (.parse 1#32) inB).map (·.pktStatus) = some .valid ∧
      (let s := inBWith [(14, 0x01#8)]
       s.pktHeader = 0x31764750#32 ∧ s.pktTypeField = 1#32 ∧ s.pktLength.toNat ≤ s.cfg.pktCapacity - 16 ∧
        s.read .pkt 12 = (crc16 0#16 (s.readBytes .pkt 16 s.pktLength.toNat)).extractLsb' 0 8 ∧
        s.read .pkt 13 = (crc16 0#16 (s.readBytes .pkt 16 s.pktLength.toNat)).extractLsb' 8 8 ∧
        s.read .pkt 14 ≠ 0#8) := by decide +kernel

/-- ParseReadsOnlyThePacket: after the packet another byte of PKT changed, and, where the type or the length or the header
fails, a byte of the payload changed. -/
theorem witness_parse_reads :
    (let m := packetB.write 22 0xAA#8
     (∀ a < 16, { inB with pkt := m }.read .pkt a = inB.read .pkt a) ∧
      ∀ k < inB.pktLength.toNat, { inB with pkt := m }.read .pkt (16 + k) = inB.read .pkt (16 + k)) ∧
      (∀ s ∈ [inB, inBWith [(0, 0x51#8)], inBWith [(8, 0x31#8)]],
        ∀ a < 16, { s with pkt := s.pkt.write 16 0xAA#8 }.read .pkt a = s.read .pkt a) ∧
      (after (.parse 3#32) inB).map (·.rspPort) = some [.fail .typeMismatch] ∧
      (after (.parse 1#32) (inBWith [(0, 0x51#8)])).map (·.rspPort) = some [.fail .headerMismatch] ∧
      (after (.parse 1#32) (inBWith [(8, 0x31#8)])).map (·.rspPort) = some [.fail .lengthTooLarge] := by
  decide +kernel

/-- ParseIsIdempotent: between the two, another `PARSE`, an `SRST` and a refused `PBW` at the first offset past PKT. -/
theorem witness_parse_again :
    goesOn (exec (.parse 1#32) inB) = true ∧
      ∀ off byte, Instr.pbw off byte ∈ [Instr.parse 3#32, .srst, .pbw 64#32 0x00#8] → inB.cfg.pktCapacity ≤ off.toNat := by
  refine ⟨by decide +kernel, fun off byte h => ?_⟩
  simp only [List.mem_cons, reduceCtorEq, Instr.pbw.injEq, List.not_mem_nil, or_false, false_or] at h
  rw [h.1]
  decide

/-- MadePacketValidates: no payload, and the longest that fits. -/
theorem witness_made_packet :
    base.cfg.Valid ∧ ([] : List Byte).length ≤ base.cfg.pktCapacity - 16 ∧
      (List.replicate 48 0xAA#8).length ≤ base.cfg.pktCapacity - 16 := by decide

/-- PayloadByteChangeIsCaught: the first and the last payload byte of B (V-FRM-6, 6a). -/
theorem witness_payload_change :
    inB.cfg.Valid ∧ ∃ t, exec (.parse 1#32) inB = .next t ∧ t.pktStatus = .valid ∧ 0 < t.pktLen.toNat ∧ 5 < t.pktLen.toNat ∧
      0x61#8 ≠ t.read .pkt (16 + 0) ∧ 0x34#8 ≠ t.read .pkt (16 + 5) :=
  ⟨by decide, (inB.setPktResult .valid inB.pktLength 1#32).respondOkay inB.pktLength,
    by simp only [exec, execParse, show inB.packetFailure 1#32 = none by decide +kernel], rfl, by decide +kernel,
    by decide +kernel, by decide +kernel, by decide +kernel⟩

/-- ValidationLastsUntilWriteParseOrReset: V-FRM-13 and a command of another unit. -/
theorem witness_validation_lasts :
    goesOn (exec (.pbw 64#32 0x00#8) validB) = true ∧ (∀ off byte, Instr.pbw 64#32 0x00#8 = .pbw off byte →
        validB.cfg.pktCapacity ≤ off.toNat) ∧
      goesOn (exec (.crcbyte 0x00#8) validB) = true ∧ Instr.opcode (.crcbyte 0x00#8) ≠ .parse ∧
      Instr.opcode (.crcbyte 0x00#8) ≠ .srst := by
  refine ⟨by decide, fun off byte h => ?_, by decide, by decide, by decide⟩
  injection h with h _
  subst h
  decide

/-- DlannAnnouncesDownload, UlannAnnouncesUpload, DownloadFillsStagingBuffer, UploadSendsSourceInOrder: sizes 1 and 16 are
accepted, 17 is not. -/
theorem witness_announce :
    1#32 ≠ 0#32 ∧ (1#32).toNat ≤ base.cfg.fbBufSize ∧ 16#32 ≠ 0#32 ∧ (16#32).toNat ≤ base.cfg.fbBufSize ∧ 17#32 ≠ 0#32 ∧
      (17#32).toNat > base.cfg.fbBufSize ∧ (1#32).toNat ≤ base.cfg.ulSrcSize ∧ (16#32).toNat ≤ base.cfg.ulSrcSize ∧
      (17#32).toNat > base.cfg.ulSrcSize := by decide

/-- DlchkStoresOrAborts: no live download; in one with 3 bytes left a chunk of 0, 4 and 3 bytes. -/
theorem witness_dlchk :
    (let s := fbt .transferring .upload 6 0 4 0
     ¬ ((s.fbPhase = .announced ∨ s.fbPhase = .transferring) ∧ s.fbDir = .download)) ∧
      (let s := fbt .transferring .download 8 5 0 0
       ((s.fbPhase = .announced ∨ s.fbPhase = .transferring) ∧ s.fbDir = .download) ∧
        s.bytesReceived.toNat + [1#8, 2#8, 3#8, 4#8].length > s.bytesExpected.toNat ∧
        ¬ ([1#8, 2#8, 3#8].length = 0 ∨ s.bytesReceived.toNat + [1#8, 2#8, 3#8].length > s.bytesExpected.toNat)) := by
  decide

/-- UlchkSendsOrAborts: no live upload; in one with 2 bytes left a length of 3 and of 2. -/
theorem witness_ulchk :
    (let s := fbt .aborted .upload 6 0 4 0
     ¬ ((s.fbPhase = .announced ∨ s.fbPhase = .transferring) ∧ s.fbDir = .upload)) ∧
      (let s := fbt .transferring .upload 6 0 4 0
       ((s.fbPhase = .announced ∨ s.fbPhase = .transferring) ∧ s.fbDir = .upload) ∧
        s.bytesSent.toNat + (3#32).toNat > s.bytesExpected.toNat ∧
        ¬ (2#32 = 0#32 ∨ s.bytesSent.toNat + (2#32).toNat > s.bytesExpected.toNat)) := by
  decide

/-- DlendPublishesImageSize, UlendCompletesUpload: a live transfer of each direction, and a state with none. -/
theorem witness_complete :
    (let s := fbt .announced .download 8 0 0 7
     (s.fbPhase = .announced ∨ s.fbPhase = .transferring) ∧ s.fbDir = .download) ∧
      (let s := fbt .transferring .upload 6 0 4 5
       (s.fbPhase = .announced ∨ s.fbPhase = .transferring) ∧ s.fbDir = .upload) ∧
      ¬ ((base.fbPhase = .announced ∨ base.fbPhase = .transferring) ∧ base.fbDir = .download) := by decide

/-- AbortedTransferStaysDead: V-FBT-47 and a refused announce. -/
theorem witness_aborted :
    (let s := fbt .aborted .download 8 5 0 0
     s.fbPhase = .aborted ∧ goesOn (exec .dlend s) = true ∧ (after .dlend s).map (·.rspPort) = some [.fail .badState] ∧
      (after (.dlann 0#32) s).map (·.rspPort) = some [.fail .invalidSize]) ∧
      Instr.dlend ≠ .srst ∧ Instr.dlann 0#32 ≠ .srst := by decide

/-- CountersNeverDecrease: an accepted chunk, and a refused complete command. -/
theorem witness_counters :
    (let s := fbt .transferring .download 8 5 0 0
     (after (.dlchk [0x46#8]) s).map (·.rspPort) = some [.okay 6#32 false []] ∧
      (after .ulend s).map (·.rspPort) = some [.fail .badState]) ∧
      Instr.opcode (.dlchk [0x46#8]) ∉ [Opcode.dlend, .ulend] ∧ Instr.dlchk [0x46#8] ≠ .srst := by decide +kernel

/-- DownloadFillsStagingBuffer: P3, two chunks that fill the announced 8 bytes, and none at all. -/
theorem witness_download :
    (let chunks : List (List Byte) := [[0x41#8, 0x42#8, 0x43#8, 0x44#8, 0x45#8], [0x46#8, 0x47#8, 0x48#8]]
     (∀ c ∈ chunks, c ≠ []) ∧ chunks.flatten.length ≤ (8#32).toNat) ∧
      ([] : List (List Byte)).flatten.length ≤ (8#32).toNat ∧ 8#32 ≠ 0#32 ∧ (8#32).toNat ≤ base.cfg.fbBufSize := by decide

/-- UploadSendsSourceInOrder: P5, two lengths that use up the announced 6 bytes. -/
theorem witness_upload :
    (∀ l ∈ [4#32, 2#32], l ≠ 0#32) ∧ ([4#32, 2#32].map BitVec.toNat).sum ≤ (6#32).toNat ∧ 6#32 ≠ 0#32 ∧
      (6#32).toNat ≤ base.cfg.ulSrcSize := ⟨by simp, by decide, by decide, by decide⟩

/-- RdregReadsTheNamedRegister: the ends of the ranges of ids that name no register. -/
theorem witness_rdreg :
    (0x0A ≤ (0x0A#8).toNat ∧ (0x0A#8).toNat ≤ 0x0F) ∧ (0x0A ≤ (0x0F#8).toNat ∧ (0x0F#8).toNat ≤ 0x0F) ∧
      0x14 ≤ (0x14#8).toNat ∧ 0x14 ≤ (0xFF#8).toNat := by decide

/-- MrdReadsOneByte: a space above 2, and in each space the last offset and the first past it. -/
theorem witness_mrd :
    2 < (3#8).toNat ∧ (63#32).toNat < base.cfg.pktCapacity ∧ base.cfg.pktCapacity ≤ (64#32).toNat ∧
      (15#32).toNat < base.cfg.fbBufSize ∧ base.cfg.fbBufSize ≤ (16#32).toNat ∧ (15#32).toNat < base.cfg.ulSrcSize ∧
      base.cfg.ulSrcSize ≤ (16#32).toNat := by decide

/-- HardwareResetBetweenCommands: the reset input with an empty port, and with a whole command on it. -/
theorem witness_hardware_reset :
    ({ validB with resetPin := true } : State).cmdPort = [] ∧
      decode ({ validB with resetPin := true, cmdPort := encode .srst } : State).cmdPort ≠ .waiting ∧
      ({ validB with resetPin := true } : State).resetPin = true := by decide +kernel

/-- EveryCommandCompletes: a state whose port does not wait, by a command and by an illegal word. -/
theorem witness_step_goes_on :
    base.resetPin = false ∧ decode ({ base with cmdPort := encode (.parse 1#32) } : State).cmdPort ≠ .waiting ∧
      decode ({ base with cmdPort := List.replicate 8 0xFF#8 } : State).cmdPort ≠ .waiting := by decide +kernel

/-- AcceptanceTable, PhaseTransitionTable: `BadState` and an abort do occur. -/
theorem witness_bad_state :
    (after (.ulchk 1#32) (fbt .transferring .download 8 5 0 0)).map (·.rspPort) = some [.fail .badState] ∧
      (after (.dlchk []) (fbt .transferring .download 8 5 0 0)).map (·.fbPhase) = some .aborted := by decide

/-- RegistersHaveTheirWritersOnly, MemoriesHaveTheirWritersOnly: a command that is on no list of writers. -/
theorem witness_writers :
    goesOn (exec (.mrd 0#8 16#32) validB) = true ∧
      Instr.opcode (.mrd 0#8 16#32) ∉ [Opcode.dlann, .ulann, .dlchk, .ulchk, .dlend, .ulend, .srst, .parse, .pbw, .crcseed,
        .crcbyte] := by decide +kernel

/-- FailuresArePrecise: a failure that writes the result registers, one that writes the phase, one that writes nothing. -/
theorem witness_failures :
    (after (.parse 3#32) validB).map (·.rspPort) = some [.fail .typeMismatch] ∧
      (after (.ulchk 4#32) (fbt .transferring .upload 6 0 4 0)).map (·.rspPort) = some [.fail .invalidChunk] ∧
      (after (.rdreg 0x0A#8) validB).map (·.rspPort) = some [.fail .badAddress] := by decide +kernel

/-- A live download with a chunk on the port. -/
def chunkNext : State := { fbt .transferring .download 8 5 0 8 with cmdPort := encode (.dlchk [0x46#8]) }

/-- A validated packet with a write into it on the port. -/
def writeNext : State := { validB with cmdPort := encode (.pbw 16#32 0x61#8) }

/-- StepKeepsTransferInvariant, StepKeepsMemoryInvariant, ParametersNeverChange. -/
theorem witness_transfer_step : chunkNext.TransferInv ∧ chunkNext.MemoryInv ∧ goesOn (step chunkNext) = true := by
  refine ⟨⟨by decide, by decide, by decide, by decide, by decide, by decide, by decide, by decide⟩, fun sp => ?_, ?_⟩
  · cases sp <;> decide
  · decide +kernel

/-- StepKeepsFramerInvariant. -/
theorem witness_framer_step : writeNext.FramerInv ∧ goesOn (step writeNext) = true := by decide +kernel

/-- ReasonsByCommand: the four states that fail a `PARSE` each their own way satisfy the framer's invariant. -/
theorem witness_parse_reasons :
    ∀ s ∈ [inB, inBWith [(0, 0x51#8)], inBWith [(8, 0x31#8)], inBWith [(21, 0x34#8)]], s.FramerInv := by decide +kernel

end Sys2Proof.Tests
end

section
/-! The scope of the block (spec/00_scope.md R11): a step runs the decoded command, and every command completes with one
response. -/

namespace Sys2Proof.Machine

/-! ## What a command always does -/

/-- Every command has a next state in every state (R11, R55): no meaning ends in a fault or a refusal. -/
theorem exec_completes (i : Instr) (s : State) : ∃ t, exec i s = .next t := by
  cases i <;> exact ⟨_, rfl⟩

/-- Each outcome of a command appends exactly one response (R11, R14). -/
theorem ExecOutcome.responds {s t : State} {i : Instr} (h : ExecOutcome s i t) : ∃ r, Responds s t r := by
  cases h with
  | parseFailed ty r h => exact ⟨.fail r, s.raiseFail_rspPort r⟩
  | _ => exact ⟨_, rfl⟩

/-- No outcome of a command touches the parameters or the host's side of the ports (R35, R55). -/
theorem ExecOutcome.sameSurroundings {s t : State} {i : Instr} (h : ExecOutcome s i t) : SameSurroundings s t := by
  cases h with
  | parseFailed ty r h =>
    exact ⟨s.raiseFail_cfg r, s.raiseFail_cmdPort r, s.raiseFail_resetPin r, s.raiseFail_epoch r⟩
  | _ => exact ⟨rfl, rfl, rfl, rfl⟩

theorem exec_completes_with_one_response (i : Instr) (s : State) :
    ∃ t r, exec i s = .next t ∧ Responds s t r ∧ SameSurroundings s t := by
  obtain ⟨t, ht⟩ := exec_completes i s
  have outcome := exec_outcome ht
  obtain ⟨r, hr⟩ := outcome.responds
  exact ⟨t, r, ht, hr, outcome.sameSurroundings⟩

/-! ## Runs -/

/-- A run completes with as many responses as commands, appended to those already given (R11). -/
theorem runCommands_completes (is : List Instr) (s : State) :
    ∃ t rs, runCommands is s = .next t ∧ rs.length = is.length ∧ t.rspPort = s.rspPort ++ rs := by
  induction is generalizing s with
  | nil => exact ⟨s, [], rfl, rfl, by simp⟩
  | cons i is ih =>
    obtain ⟨u, r, hu, hr, -⟩ := exec_completes_with_one_response i s
    obtain ⟨t, rs, ht, hlen, hrs⟩ := ih u
    refine ⟨t, r :: rs, ?_, by simp [hlen], ?_⟩
    · rw [runCommands_cons_next hu, ht]
    · rw [hrs, hr, List.append_assoc, List.singleton_append]

/-! ## The step -/

theorem step_of_command {s : State} {i : Instr} {rest : List Byte} (hr : s.resetPin = false)
    (hd : decode s.cmdPort = .command i rest) : step s = exec i (s.takeCommand rest) := by
  simp only [step, State.nextEvent_command hr hd]

theorem step_of_illegal {s : State} {why : IllegalWord} {rest : List Byte} (hr : s.resetPin = false)
    (hd : decode s.cmdPort = .illegal why rest) : step s = .next (s.takeCommand rest).answerIllegal := by
  simp only [step, State.nextEvent_illegal hr hd]

/-- A step stops only where the port's front is no whole command and no illegal word. -/
theorem step_completes {s : State} (hr : s.resetPin = false) (hd : decode s.cmdPort ≠ .waiting) :
    ∃ t, step s = .next t := by
  cases hc : decode s.cmdPort with
  | command i rest => exact step_of_command hr hc ▸ exec_completes i (s.takeCommand rest)
  | illegal why rest => exact ⟨_, step_of_illegal hr hc⟩
  | waiting => exact absurd hc hd

/-! ## The obligations -/

/-- Settles O7: the event at the port is the decoded command, and `takeCommand` writes the port alone. -/
theorem stepRunsDecodedCommand : Obligations.StepRunsDecodedCommand :=
  fun _ _ _ hr hd => step_of_command hr hd

/-- Settles O49, by cases on the outcomes of a command, induction on the run, and cases on the front of the port. -/
theorem everyCommandCompletes : Obligations.EveryCommandCompletes :=
  ⟨exec_completes_with_one_response, runCommands_completes, fun _ hr hd => step_completes hr hd⟩

end Sys2Proof.Machine
end

section
/-! What every step keeps (spec/10_state.md R20 to R42): the writers of each register and of each memory, the invariants of
unit FRM (R25) and of unit FBT (R42), the parameters (R35), and that no other unit sees `crc` (R21). -/

namespace Sys2Proof.Machine

/-! ## Failures of `PARSE` -/

/-- A failed `PARSE` records a status other than `Valid` with a zero length and type, and does nothing else (R134). -/
theorem State.raiseFail_of_packetFailure {s : State} {ty : Word} {r : Reason} (h : s.packetFailure ty = some r) :
    ∃ st, st ≠ .valid ∧ s.raiseFail r = (s.setPktResult st 0#32 0#32).respond (.fail r) := by
  rcases State.packetFailure_some h with rfl | rfl | rfl | rfl
  · exact ⟨.headerMismatch, by decide, rfl⟩
  · exact ⟨.typeMismatch, by decide, rfl⟩
  · exact ⟨.lengthTooLarge, by decide, rfl⟩
  · exact ⟨.crcMismatch, by decide, rfl⟩

theorem State.raiseFail_fbPhase_of_packetFailure {s : State} {ty : Word} {r : Reason} (h : s.packetFailure ty = some r) :
    (s.raiseFail r).fbPhase = s.fbPhase := by
  obtain ⟨st, -, heq⟩ := State.raiseFail_of_packetFailure h
  rw [heq, State.respond_fbPhase, State.setPktResult_fbPhase]

/-! ## What a step keeps -/

/-- What the taking of a command, every command, the answer to an illegal word and a hardware reset keep, the step keeps. -/
theorem step_keeps {P : State → Prop} (take : ∀ s rest, P s → P (s.takeCommand rest))
    (command : ∀ i s t, P s → ExecOutcome s i t → P t) (illegal : ∀ s, P s → P (s.respond (.fail .illegalCommand)))
    (reset : ∀ s, P s → P s.hardwareReset) {s t : State} (hs : P s) (h : step s = .next t) : P t := by
  obtain ⟨i, rest, -, -, hexec⟩ | ⟨_, rest, -, -, rfl⟩ | ⟨-, rfl⟩ := step_next_cases h
  · exact command i _ t (take s rest hs) (exec_outcome hexec)
  · exact illegal _ (take s rest hs)
  · exact reset s hs

/-! ## The invariant of unit FRM (R25) -/

/-- The invariant sees PKT, its result registers, the epoch and the parameters alone. -/
theorem State.FramerInv.congr {s t : State} (hs : s.FramerInv) (hm : t.pkt = s.pkt) (he : t.epoch = s.epoch)
    (hg : t.cfg = s.cfg) (hst : t.pktStatus = s.pktStatus) (hl : t.pktLen = s.pktLen) (hty : t.pktType = s.pktType) :
    t.FramerInv := by
  have hfield : ∀ off, t.le32 off = s.le32 off := State.le32_congr hm he
  have hbytes : ∀ a n, t.readBytes .pkt a n = s.readBytes .pkt a n := State.readBytes_congr (sp := .pkt) hm he
  simp only [State.FramerInv, State.pktHeader, State.pktTypeField, State.pktLength, State.pktCrcField, hfield, hbytes, hg,
    hst, hl, hty] at hs ⊢
  exact hs

/-- Without a validation there is nothing to hold but the two zeros. -/
theorem State.FramerInv.of_not_valid {t : State} (hst : t.pktStatus ≠ .valid) (hl : t.pktLen = 0#32)
    (hty : t.pktType = 0#32) : t.FramerInv :=
  ⟨fun h => absurd h hst, fun _ => ⟨hl, hty⟩⟩

/-- The four checks of `PARSE` are what the invariant asks of a valid packet (R133, R134). -/
theorem State.FramerInv.of_packetFailure_none {s : State} {ty : Word} (h : s.packetFailure ty = none) :
    ((s.setPktResult .valid s.pktLength ty).respondOkay s.pktLength).FramerInv := by
  obtain ⟨hheader, htype, hlength, hcrc⟩ := (State.packetFailure_none_iff ty s).mp h
  exact ⟨fun _ => ⟨hheader, htype, rfl, hlength, hcrc.symm⟩, fun hst => absurd rfl hst⟩

/-- Only an accepted `PBW`, a `PARSE` and `SRST` touch what the invariant sees. -/
theorem ExecOutcome.keeps_framerInv {i : Instr} {s t : State} (hs : s.FramerInv) (h : ExecOutcome s i t) :
    t.FramerInv := by
  cases h with
  | pbwStored off byte h => exact .of_not_valid (by simp [State.respondOkay]) rfl rfl
  | parseFailed ty r h =>
    obtain ⟨st, hst, heq⟩ := State.raiseFail_of_packetFailure h
    exact heq ▸ .of_not_valid hst rfl rfl
  | parseValid ty h => exact .of_packetFailure_none h
  | srst => exact .of_not_valid (by simp [State.respondOkay]) rfl rfl
  | _ => exact hs.congr rfl rfl rfl rfl rfl rfl

/-- Settles O57, by cases on what the step did and on the outcomes of a command. -/
theorem stepKeepsFramerInvariant : Obligations.StepKeepsFramerInvariant := fun _ _ hs h =>
  step_keeps (P := State.FramerInv) (fun _ _ hs => hs.congr rfl rfl rfl rfl rfl rfl)
    (fun _ _ _ hs h => h.keeps_framerInv hs) (fun _ hs => hs.congr rfl rfl rfl rfl rfl rfl)
    (fun _ _ => .of_not_valid (by simp) rfl rfl) hs h

/-! ## The invariants of unit FBT (R42) -/

/-- The six registers of unit FBT and the parameters: all that its invariants see (`State.TransferInv.congr`). -/
def State.transferView (s : State) : Phase × Dir × Word × Word × Word × Word × Config.Params :=
  (s.fbPhase, s.fbDir, s.bytesExpected, s.bytesReceived, s.bytesSent, s.imageSize, s.cfg)

theorem State.TransferInv.congr {s t : State} (hs : s.TransferInv) (h : t.transferView = s.transferView) :
    t.TransferInv := by
  simp only [State.transferView, Prod.mk.injEq] at h
  obtain ⟨hphase, hdir, hexpected, hreceived, hsent, himage, hcfg⟩ := h
  have hcount : t.transferCount = s.transferCount := by simp only [State.transferCount, hdir, hreceived, hsent]
  obtain ⟨ha, ha', hb, hb', hc, hd, he, hf⟩ := hs
  constructor <;> simp only [hphase, hdir, hexpected, hreceived, hsent, himage, hcfg, hcount] <;> assumption

/-- With every register of unit FBT at its reset value the invariants hold, whatever the parameters. -/
theorem State.TransferInv.of_cleared {t : State} (h : t.registers = State.reset.registers) : t.TransferInv := by
  simp only [State.registers, State.reset, Registers.mk.injEq] at h
  obtain ⟨-, -, -, -, hphase, hdir, hexpected, hreceived, hsent, himage⟩ := h
  constructor <;> simp [hphase, hdir, hexpected, hreceived, hsent, himage]

/-- An announce within its direction's bound starts the transfer from zero (R156, R162). -/
theorem State.TransferInv.announce {s : State} (hs : s.TransferInv) {d : Dir} {size : Word} (h0 : size ≠ 0#32)
    (hdl : d = .download → size.toNat ≤ s.cfg.fbBufSize) (hul : d = .upload → size.toNat ≤ s.cfg.ulSrcSize) :
    (s.announce d size).TransferInv where
  received_le := by simp
  sent_le := by simp
  download hd := ⟨rfl, hdl hd⟩
  upload hd := ⟨rfl, hul hd⟩
  resting := by simp
  announced _ := ⟨Nat.pos_of_ne_zero fun h => h0 (BitVec.eq_of_toNat_eq h), rfl, rfl⟩
  transferring := by simp
  image_le := hs.image_le

/-- An abort leaves the counters and the announced size, and no clause speaks of `Aborted` (R158, R165). -/
theorem State.TransferInv.abort {s : State} (hs : s.TransferInv) : (s.setPhase .aborted).TransferInv where
  received_le := hs.received_le
  sent_le := hs.sent_le
  download := hs.download
  upload := hs.upload
  resting := by simp
  announced := by simp
  transferring := by simp
  image_le := hs.image_le

/-- An accepted download chunk keeps the counter within the announced size, without a wrap (R151, R157). -/
theorem State.TransferInv.downloadChunk {s : State} (hs : s.TransferInv) {data : List Byte}
    (ha : s.accepts .download = true) (hc : chunkInvalid s.bytesReceived data.length s.bytesExpected = false) :
    (s.downloadChunk data).TransferInv := by
  obtain ⟨-, hdir⟩ := (s.accepts_iff .download).mp ha
  obtain ⟨hcount, hpos, hle⟩ := toNat_chunk_counter hc
  have hreceived : (s.downloadChunk data).bytesReceived.toNat = s.bytesReceived.toNat + data.length := hcount
  have htransferred : (s.downloadChunk data).transferCount = (s.downloadChunk data).bytesReceived := by
    simp [State.transferCount, State.downloadChunk, hdir]
  exact {
    received_le := hreceived ▸ hle
    sent_le := hs.sent_le
    download := hs.download
    upload := fun hd => absurd (hdir.symm.trans hd) (by decide)
    resting := by simp [State.downloadChunk]
    announced := by simp [State.downloadChunk]
    transferring := fun _ => ⟨show 1 ≤ s.bytesExpected.toNat by omega, by rw [htransferred]; omega⟩
    image_le := hs.image_le }

/-- The same for an accepted upload chunk (R151, R163). -/
theorem State.TransferInv.uploadChunk {s : State} (hs : s.TransferInv) {len : Nat} (ha : s.accepts .upload = true)
    (hc : chunkInvalid s.bytesSent len s.bytesExpected = false) : (s.uploadChunk len).TransferInv := by
  obtain ⟨-, hdir⟩ := (s.accepts_iff .upload).mp ha
  obtain ⟨hcount, hpos, hle⟩ := toNat_chunk_counter hc
  have hsent : (s.uploadChunk len).bytesSent.toNat = s.bytesSent.toNat + len := hcount
  have htransferred : (s.uploadChunk len).transferCount = (s.uploadChunk len).bytesSent := by
    simp [State.transferCount, State.uploadChunk, hdir]
  exact {
    received_le := hs.received_le
    sent_le := hsent ▸ hle
    download := fun hd => absurd (hdir.symm.trans hd) (by decide)
    upload := hs.upload
    resting := by simp [State.uploadChunk]
    announced := by simp [State.uploadChunk]
    transferring := fun _ => ⟨show 1 ≤ s.bytesExpected.toNat by omega, by rw [htransferred]; omega⟩
    image_le := hs.image_le }

/-- A completed transfer rests with its counters at zero; `image_size` may be any size that fits STG (R159, R166). -/
theorem State.TransferInv.finish (s : State) {image : Word} (h : image.toNat ≤ s.cfg.fbBufSize) :
    ({ s.finishTransfer with imageSize := image } : State).TransferInv where
  received_le := by simp
  sent_le := by simp
  download _ := ⟨rfl, Nat.zero_le _⟩
  upload _ := ⟨rfl, Nat.zero_le _⟩
  resting _ := ⟨rfl, rfl, rfl⟩
  announced := by simp
  transferring := by simp
  image_le := h

/-- What a live download has received fits STG. -/
theorem State.TransferInv.received_le_fbBufSize {s : State} (hs : s.TransferInv) (ha : s.accepts .download = true) :
    s.bytesReceived.toNat ≤ s.cfg.fbBufSize :=
  hs.received_le.trans (hs.download ((s.accepts_iff .download).mp ha).2).2

/-- The commands of the other units leave what the invariants see; those of unit FBT keep them by the lemmas above. -/
theorem ExecOutcome.keeps_transferInv {i : Instr} {s t : State} (hs : s.TransferInv) (h : ExecOutcome s i t) :
    t.TransferInv := by
  cases h with
  | parseFailed ty r h =>
    obtain ⟨st, -, heq⟩ := State.raiseFail_of_packetFailure h
    exact heq ▸ hs.congr rfl
  | dlannAccepted size h0 h =>
    exact (hs.announce (d := .download) h0 (fun _ => h) (by simp)).congr rfl
  | ulannAccepted size h0 h =>
    exact (hs.announce (d := .upload) h0 (by simp) (fun _ => h)).congr rfl
  | dlchkInvalid data ha hc => exact hs.abort.congr rfl
  | ulchkInvalid len ha hc => exact hs.abort.congr rfl
  | dlchkAccepted data ha hc => exact hs.downloadChunk ha hc
  | ulchkAccepted len ha hc => exact hs.uploadChunk ha hc
  | dlendAccepted ha => exact (State.TransferInv.finish s (hs.received_le_fbBufSize ha)).congr rfl
  | ulendAccepted ha => exact (State.TransferInv.finish s hs.image_le).congr rfl
  | srst => exact .of_cleared rfl
  | _ => exact hs.congr rfl

/-- Settles O58, by cases on what the step did and on the outcomes of a command. -/
theorem stepKeepsTransferInvariant : Obligations.StepKeepsTransferInvariant :=
  ⟨.of_cleared rfl, fun _ _ hs h =>
    step_keeps (P := State.TransferInv) (fun _ _ hs => hs.congr rfl) (fun _ _ _ hs h => h.keeps_transferInv hs)
      (fun _ hs => hs.congr rfl) (fun _ _ => .of_cleared rfl) hs h⟩

/-! ## The writers of each register (R20) -/

section Writers

variable {i : Instr} {s t : State}

theorem ExecOutcome.crc_eq (h : ExecOutcome s i t) (hi : i.opcode ∉ [Opcode.crcseed, .crcbyte, .srst]) :
    t.crc = s.crc := by
  cases h with
  | crcseed | crcbyte | srst => simp [Instr.opcode] at hi
  | parseFailed ty r h => exact s.raiseFail_crc r
  | _ => rfl

theorem ExecOutcome.pktResult_eq (h : ExecOutcome s i t) (hi : i.opcode ∉ [Opcode.parse, .pbw, .srst]) :
    t.pktStatus = s.pktStatus ∧ t.pktLen = s.pktLen ∧ t.pktType = s.pktType := by
  cases h with
  | parseFailed | parseValid | pbwStored | srst => simp [Instr.opcode] at hi
  | _ => exact ⟨rfl, rfl, rfl⟩

theorem ExecOutcome.fbPhase_eq (h : ExecOutcome s i t)
    (hi : i.opcode ∉ [Opcode.dlann, .ulann, .dlchk, .ulchk, .dlend, .ulend, .srst]) : t.fbPhase = s.fbPhase := by
  cases h with
  | dlannAccepted | ulannAccepted | dlchkInvalid | dlchkAccepted | ulchkInvalid | ulchkAccepted | dlendAccepted
  | ulendAccepted | srst => simp [Instr.opcode] at hi
  | parseFailed ty r h => exact State.raiseFail_fbPhase_of_packetFailure h
  | _ => rfl

theorem ExecOutcome.fbDir_eq (h : ExecOutcome s i t) (hi : i.opcode ∉ [Opcode.dlann, .ulann, .srst]) :
    t.fbDir = s.fbDir := by
  cases h with
  | dlannAccepted | ulannAccepted | srst => simp [Instr.opcode] at hi
  | parseFailed ty r h => exact s.raiseFail_fbDir r
  | _ => rfl

theorem ExecOutcome.bytesExpected_eq (h : ExecOutcome s i t)
    (hi : i.opcode ∉ [Opcode.dlann, .ulann, .dlend, .ulend, .srst]) : t.bytesExpected = s.bytesExpected := by
  cases h with
  | dlannAccepted | ulannAccepted | dlendAccepted | ulendAccepted | srst => simp [Instr.opcode] at hi
  | parseFailed ty r h => exact s.raiseFail_bytesExpected r
  | _ => rfl

theorem ExecOutcome.bytesReceived_eq (h : ExecOutcome s i t)
    (hi : i.opcode ∉ [Opcode.dlann, .ulann, .dlchk, .dlend, .ulend, .srst]) : t.bytesReceived = s.bytesReceived := by
  cases h with
  | dlannAccepted | ulannAccepted | dlchkAccepted | dlendAccepted | ulendAccepted | srst => simp [Instr.opcode] at hi
  | parseFailed ty r h => exact s.raiseFail_bytesReceived r
  | _ => rfl

theorem ExecOutcome.bytesSent_eq (h : ExecOutcome s i t)
    (hi : i.opcode ∉ [Opcode.dlann, .ulann, .ulchk, .dlend, .ulend, .srst]) : t.bytesSent = s.bytesSent := by
  cases h with
  | dlannAccepted | ulannAccepted | ulchkAccepted | dlendAccepted | ulendAccepted | srst => simp [Instr.opcode] at hi
  | parseFailed ty r h => exact s.raiseFail_bytesSent r
  | _ => rfl

theorem ExecOutcome.imageSize_eq (h : ExecOutcome s i t) (hi : i.opcode ∉ [Opcode.dlend, .srst]) :
    t.imageSize = s.imageSize := by
  cases h with
  | dlendAccepted | srst => simp [Instr.opcode] at hi
  | parseFailed ty r h => exact s.raiseFail_imageSize r
  | _ => rfl

/-! ## The writers of each memory (R37) -/

theorem ExecOutcome.pkt_eq (h : ExecOutcome s i t) (hi : i.opcode ≠ .pbw) : t.pkt = s.pkt := by
  cases h with
  | pbwStored => exact absurd rfl hi
  | parseFailed ty r h => exact s.raiseFail_pkt r
  | _ => rfl

theorem ExecOutcome.stg_eq (h : ExecOutcome s i t) (hi : i.opcode ≠ .dlchk) : t.stg = s.stg := by
  cases h with
  | dlchkAccepted => exact absurd rfl hi
  | parseFailed ty r h => exact s.raiseFail_stg r
  | _ => rfl

theorem ExecOutcome.src_eq (h : ExecOutcome s i t) : t.src = s.src := by
  cases h with
  | parseFailed ty r h => exact s.raiseFail_src r
  | _ => rfl

end Writers

/-- Settles O50: one lemma a register, each by cases on the outcomes of a command. -/
theorem registersHaveTheirWritersOnly : Obligations.RegistersHaveTheirWritersOnly := fun _ _ _ h =>
  have outcome := exec_outcome h
  ⟨outcome.crc_eq, outcome.pktResult_eq, outcome.fbPhase_eq, outcome.fbDir_eq, outcome.bytesExpected_eq,
    outcome.bytesReceived_eq, outcome.bytesSent_eq, outcome.imageSize_eq⟩

/-- Settles O51: what a memory lists, and the epoch, decide what each of its bytes reads as. -/
theorem memoriesHaveTheirWritersOnly : Obligations.MemoriesHaveTheirWritersOnly := by
  intro i s t h
  have outcome := exec_outcome h
  obtain ⟨-, -, -, hepoch⟩ := outcome.sameSurroundings
  exact ⟨fun hi => State.read_congr (sp := .pkt) (outcome.pkt_eq hi) hepoch,
    fun hi => State.read_congr (sp := .stg) (outcome.stg_eq hi) hepoch,
    State.read_congr (sp := .src) outcome.src_eq hepoch⟩

/-- Settles O52: a command keeps its surroundings, and the answer to an illegal word and a reset write no parameter. -/
theorem parametersNeverChange : Obligations.ParametersNeverChange := fun s _ h =>
  step_keeps (P := fun u => u.cfg = s.cfg) (fun _ _ hu => hu) (fun _ _ _ hu h => h.sameSurroundings.1.trans hu)
    (fun _ hu => hu) (fun _ hu => hu) rfl h

/-! ## The counters within a transfer (R29, R30) -/

/-- A command has one response. -/
theorem Responds.unique {s t : State} {r r' : Response} (h : Responds s t r) (h' : Responds s t r') : r = r' := by
  simpa using h.symm.trans h'

/-- A counter with an accepted chunk's length added has not wrapped (R151). -/
theorem toNat_le_chunk_counter {count expected : Word} {len : Nat} (h : chunkInvalid count len expected = false) :
    count.toNat ≤ (BitVec.ofNat 32 (count.toNat + len)).toNat := by
  obtain ⟨hcount, -, -⟩ := toNat_chunk_counter h
  omega

/-- Settles O40: an accepted chunk adds to its counter without a wrap; the outcomes that write a counter otherwise are the
events the statement excludes. -/
theorem countersNeverDecrease : Obligations.CountersNeverDecrease := by
  intro i s t h hsrst hannounce hcomplete
  cases exec_outcome h with
  | dlannAccepted size | ulannAccepted size => exact absurd rfl (hannounce size)
  | dlendAccepted | ulendAccepted =>
    have hrefused := hcomplete (by simp [Instr.opcode])
    exact absurd (Responds.unique rfl hrefused) (by simp)
  | srst => exact absurd rfl hsrst
  | dlchkAccepted data ha hc => exact ⟨toNat_le_chunk_counter hc, le_rfl⟩
  | ulchkAccepted len ha hc => exact ⟨le_rfl, toNat_le_chunk_counter hc⟩
  | parseFailed ty r h => simp
  | _ => exact ⟨le_rfl, le_rfl⟩

/-! ## The value in `crc` (R21, R116) -/

/-- The state with another value in `crc`: what the two runs of the non-interference statement differ in. -/
def State.withCrc (c : Half) (s : State) : State := { s with crc := c }

theorem State.raiseFail_withCrc (c : Half) (s : State) (r : Reason) :
    (s.withCrc c).raiseFail r = (s.raiseFail r).withCrc c := by
  cases r <;> rfl

theorem State.packetFailure_withCrc (c : Half) (s : State) (ty : Word) :
    (s.withCrc c).packetFailure ty = s.packetFailure ty :=
  State.packetFailure_congr ty rfl rfl rfl rfl rfl rfl

theorem State.announceChecked_withCrc (c : Half) (s : State) (d : Dir) (limit : Nat) (size : Word) :
    (s.withCrc c).announceChecked d limit size = (s.announceChecked d limit size).withCrc c := by
  unfold State.announceChecked
  split
  · rfl
  · split <;> rfl

theorem State.readReg_withCrc (c : Half) (s : State) {r : RegName} (h : r ≠ .crc) :
    (s.withCrc c).readReg r = s.readReg r := by
  cases r with
  | crc => exact absurd rfl h
  | _ => rfl

/-- With another value in `crc`, a command of another unit passes the same checks and does the same. -/
theorem exec_withCrc (c : Half) {i : Instr} {s t : State} (hi : i.opcode ∉ [Opcode.crcseed, .crcbyte, .srst])
    (hreg : i ≠ .rdreg 0x00#8) (h : exec i s = .next t) : exec i (s.withCrc c) = .next (t.withCrc c) := by
  cases i with
  | crcseed | crcbyte | srst => simp [Instr.opcode] at hi
  | parse ty =>
    simp only [exec, execParse, State.packetFailure_withCrc] at h ⊢
    injection h with h
    subst h
    cases s.packetFailure ty with
    | none => rfl
    | some r => exact congrArg _ (s.raiseFail_withCrc c r)
  | dlann size | ulann size =>
    injection h with h
    subst h
    exact congrArg _ (s.announceChecked_withCrc c _ _ size)
  | pbw | dlchk | dlend | ulchk | ulend =>
    injection h with h
    subst h
    simp only [apply_ite (State.withCrc c)]
    rfl
  | rdreg id =>
    simp only [exec, execRdreg] at h ⊢
    injection h with h
    subst h
    cases hid : RegName.ofId? id with
    | none => rfl
    | some r =>
      have hr : r ≠ .crc := fun hr => hreg (by rw [← RegName.id_of_ofId? hid, hr]; rfl)
      simp only [State.readReg_withCrc c s hr]
      rfl
  | mrd space off =>
    simp only [exec, execMrd] at h ⊢
    injection h with h
    subst h
    cases Space.ofId? space with
    | none => rfl
    | some sp =>
      simp only [apply_ite (State.withCrc c)]
      cases sp <;> rfl

/-- Settles O21, by cases on the command: its checks and its writes see no `crc`. -/
theorem otherUnitsIgnoreCrc : Obligations.OtherUnitsIgnoreCrc := fun _ _ _ c hi hreg h =>
  ⟨(exec_outcome h).crc_eq hi, exec_withCrc c hi hreg h⟩

/-! ## The codes and the reset state -/

/-- Settles O55: each code, evaluated. -/
theorem codesOfStatusPhaseAndReasons : Obligations.CodesOfStatusPhaseAndReasons := by
  unfold Obligations.CodesOfStatusPhaseAndReasons
  decide

/-- The launch parameters, each its least value and a bounded excess, meet the constraints (R9). -/
theorem configParams_valid : Config.params.Valid := by
  have hpkt := Config.pktCapacityAbove.isLt
  have hbuf := Config.fbBufSizeAbove.isLt
  have hsrc := Config.ulSrcSizeAbove.isLt
  have hint := Config.progressIntervalAbove.isLt
  simp only [Config.Params.Valid, Config.params]
  omega

/-- Settles O56: no byte is written, nothing is validated, and every register of unit FBT is zero. -/
theorem resetSatisfiesInvariants : Obligations.ResetSatisfiesInvariants where
  params := configParams_valid
  memory sp := by cases sp <;> exact ⟨List.Pairwise.nil, fun _ hc => absurd hc List.not_mem_nil⟩
  framer := .of_not_valid (by decide) rfl rfl
  transfer := .of_cleared rfl

end Sys2Proof.Machine
end

section
/-! The three memories (spec/20_memory.md): the bounds every step keeps (R57), the byte order of a
packet field (R50), the repeated `PARSE` (R56), and transfers in chunks of any lengths (R59, R60). -/

namespace Sys2Proof.Machine

/-! ## The bounds and the canonical form (R57) -/

/-- The invariant sees what the memories list and the parameters alone. -/
theorem State.MemoryInv.congr {s t : State} (hs : s.MemoryInv) (hp : t.pkt = s.pkt) (hg : t.stg = s.stg)
    (hr : t.src = s.src) (hcfg : t.cfg = s.cfg) : t.MemoryInv := by
  intro sp
  have hmemory : t.memory sp = s.memory sp := by cases sp <;> assumption
  have hsize : t.spaceSize sp = s.spaceSize sp := by cases sp <;> simp only [State.spaceSize, hcfg]
  rw [hmemory, hsize]
  exact hs sp

theorem State.MemoryInv.storePkt {s : State} (hs : s.MemoryInv) {off : Nat} (h : off < s.cfg.pktCapacity) (b : Byte) :
    (s.storePkt off b).MemoryInv
  | .pkt => by
    obtain ⟨hwf, hin⟩ := hs .pkt
    refine ⟨Memory.wf_write hwf off b, fun c hc => ?_⟩
    rcases Memory.mem_write hc with rfl | hc
    · exact h
    · exact hin c hc
  | .stg => hs .stg
  | .src => hs .src

theorem State.MemoryInv.storeStg {s : State} (hs : s.MemoryInv) {off : Nat} {data : List Byte}
    (h : off + data.length ≤ s.cfg.fbBufSize) : (s.storeStg off data).MemoryInv
  | .pkt => hs .pkt
  | .stg => by
    obtain ⟨hwf, hin⟩ := hs .stg
    refine ⟨Memory.wf_writeBytes hwf off data, fun c hc => ?_⟩
    rcases Memory.mem_writeBytes hc with ⟨-, hlt⟩ | hc
    · exact hlt.trans_le h
    · exact hin c hc
  | .src => hs .src

/-- A hardware reset forgets the bytes of PKT and STG and keeps those of SRC (R240). -/
theorem State.MemoryInv.hardwareReset {s : State} (hs : s.MemoryInv) : s.hardwareReset.MemoryInv
  | .pkt | .stg => ⟨List.Pairwise.nil, fun _ hc => absurd hc List.not_mem_nil⟩
  | .src => hs .src

/-- An accepted chunk ends within the announced size, and so within STG (R42 (b), R157). -/
theorem State.TransferInv.chunk_le_fbBufSize {s : State} (hs : s.TransferInv) {len : Nat}
    (ha : s.accepts .download = true) (hc : chunkInvalid s.bytesReceived len s.bytesExpected = false) :
    s.bytesReceived.toNat + len ≤ s.cfg.fbBufSize := by
  obtain ⟨-, hdir⟩ := (s.accepts_iff .download).mp ha
  obtain ⟨-, -, hle⟩ := toNat_chunk_counter hc
  exact hle.trans (hs.download hdir).2

/-- Two outcomes write a memory: an accepted `PBW`, whose offset it checks, and an accepted `DLCHK`, whose end the
invariants of unit FBT bound. -/
theorem ExecOutcome.keeps_memoryInv {i : Instr} {s t : State} (htransfer : s.TransferInv) (hs : s.MemoryInv)
    (h : ExecOutcome s i t) : t.MemoryInv := by
  cases h with
  | pbwStored off byte h => exact (hs.storePkt h byte).congr rfl rfl rfl rfl
  | dlchkAccepted data ha hc =>
    exact (hs.storeStg (htransfer.chunk_le_fbBufSize ha hc)).congr rfl rfl rfl rfl
  | parseFailed ty r h =>
    exact hs.congr (s.raiseFail_pkt r) (s.raiseFail_stg r) (s.raiseFail_src r) (s.raiseFail_cfg r)
  | _ => exact hs.congr rfl rfl rfl rfl

/-- Settles O59, by cases on what the step did and on the outcomes of a command. -/
theorem stepKeepsMemoryInvariant : Obligations.StepKeepsMemoryInvariant := fun _ _ htransfer hs h =>
  (step_keeps (P := fun u => u.TransferInv ∧ u.MemoryInv)
    (fun _ _ ⟨ht, hm⟩ => ⟨ht.congr rfl, hm.congr rfl rfl rfl rfl⟩)
    (fun _ _ _ ⟨ht, hm⟩ h => ⟨h.keeps_transferInv ht, h.keeps_memoryInv ht hm⟩)
    (fun _ ⟨ht, hm⟩ => ⟨ht.congr rfl, hm.congr rfl rfl rfl rfl⟩)
    (fun _ ⟨_, hm⟩ => ⟨.of_cleared rfl, hm.hardwareReset⟩) ⟨htransfer, hs⟩ h).2

/-! ## The byte order of a packet field (R50) -/

theorem ofNat_leNat_nil : BitVec.ofNat 32 (leNat []) = 0#32 := rfl

/-- The lowest byte of a little-endian number, and the rest of it eight bits up. -/
theorem ofNat_leNat_cons (b : Byte) (bs : List Byte) :
    BitVec.ofNat 32 (leNat (b :: bs)) = b.setWidth 32 ||| BitVec.ofNat 32 (leNat bs) <<< 8 := by
  apply BitVec.eq_of_toNat_eq
  have hb := b.isLt
  have hdisjoint := Nat.two_pow_add_eq_or_of_lt hb (leNat bs % 2 ^ 24)
  simp only [leNat, BitVec.toNat_ofNat, BitVec.toNat_or, BitVec.toNat_setWidth, BitVec.toNat_shiftLeft, Nat.shiftLeft_eq]
  rw [Nat.mod_eq_of_lt (show b.toNat < 2 ^ 32 by omega),
    show leNat bs % 2 ^ 32 * 2 ^ 8 % 2 ^ 32 = 2 ^ 8 * (leNat bs % 2 ^ 24) by omega, Nat.or_comm, ← hdisjoint]
  omega

theorem State.readBytes_four (s : State) (sp : Space) (off : Nat) :
    s.readBytes sp off 4 = [s.read sp off, s.read sp (off + 1), s.read sp (off + 2), s.read sp (off + 3)] := rfl

/-- A field has a value exactly when its four bytes make that number: what four bytes make fits in 32 bits. -/
theorem State.le32_eq_ofNat_iff (s : State) (off : Nat) {n : Nat} (hn : n < 2 ^ 32) :
    s.le32 off = BitVec.ofNat 32 n ↔ leNat (s.readBytes .pkt off 4) = n := by
  have hlt : leNat (s.readBytes .pkt off 4) < 2 ^ 32 := by
    simpa using leNat_lt (s.readBytes .pkt off 4)
  rw [State.le32, ← BitVec.toNat_inj, BitVec.toNat_ofNat, BitVec.toNat_ofNat, Nat.mod_eq_of_lt hlt, Nat.mod_eq_of_lt hn]

theorem State.le32_eq_or (s : State) (off : Nat) :
    s.le32 off = (s.read .pkt off).setWidth 32 ||| (s.read .pkt (off + 1)).setWidth 32 <<< 8 |||
      (s.read .pkt (off + 2)).setWidth 32 <<< 16 ||| (s.read .pkt (off + 3)).setWidth 32 <<< 24 := by
  simp [State.le32, State.readBytes_four, ofNat_leNat_cons, ofNat_leNat_nil, BitVec.shiftLeft_or_distrib,
    ← BitVec.shiftLeft_add, BitVec.or_assoc]

/-- Four bytes make the magic constant exactly when they are its four bytes: `leBytes` gives them back. -/
theorem leNat_eq_magic_iff (b0 b1 b2 b3 : Byte) :
    leNat [b0, b1, b2, b3] = 0x31764750 ↔ b0 = 0x50#8 ∧ b1 = 0x47#8 ∧ b2 = 0x76#8 ∧ b3 = 0x31#8 := by
  constructor
  · intro h
    have hbytes := leBytes_leNat [b0, b1, b2, b3]
    rw [h] at hbytes
    simpa [leBytes, eq_comm] using hbytes
  · rintro ⟨rfl, rfl, rfl, rfl⟩
    rfl

/-- Settles O22, by taking one byte after the other off the number. -/
theorem packetFieldsAreLittleEndian : Obligations.PacketFieldsAreLittleEndian :=
  ⟨State.le32_eq_or, fun s off =>
    (s.le32_eq_ofNat_iff off (by decide)).trans (State.readBytes_four s .pkt off ▸ leNat_eq_magic_iff _ _ _ _)⟩

/-! ## The repeated `PARSE` (R56) -/

/-- No command but an accepted `PBW` writes PKT (R132). -/
theorem ExecOutcome.pkt_eq_of_pbw_refused {i : Instr} {s t : State} (h : ExecOutcome s i t)
    (hpbw : ∀ off byte, i = .pbw off byte → s.cfg.pktCapacity ≤ off.toNat) : t.pkt = s.pkt := by
  cases h with
  | pbwStored off byte h => exact absurd (hpbw off byte rfl) (Nat.not_le.mpr h)
  | parseFailed ty r h => exact s.raiseFail_pkt r
  | _ => rfl

/-- What `PARSE` looks at: the bytes of PKT and the parameters. -/
structure SamePacket (s t : State) : Prop where
  pkt : t.pkt = s.pkt
  epoch : t.epoch = s.epoch
  cfg : t.cfg = s.cfg

theorem SamePacket.trans {s t u : State} (h : SamePacket s t) (h' : SamePacket t u) : SamePacket s u :=
  ⟨h'.pkt.trans h.pkt, h'.epoch.trans h.epoch, h'.cfg.trans h.cfg⟩

theorem SamePacket.read {s t : State} (h : SamePacket s t) (a : Nat) : t.read .pkt a = s.read .pkt a :=
  State.read_congr (sp := .pkt) h.pkt h.epoch a

theorem SamePacket.le32 {s t : State} (h : SamePacket s t) (off : Nat) : t.le32 off = s.le32 off :=
  State.le32_congr h.pkt h.epoch off

theorem SamePacket.packetFailure {s t : State} (h : SamePacket s t) (ty : Word) :
    t.packetFailure ty = s.packetFailure ty := by
  have hlength : t.pktLength = s.pktLength := h.le32 8
  have hpayload : t.payloadCrc = s.payloadCrc := by
    simp only [State.payloadCrc, hlength, State.readBytes_congr (sp := .pkt) h.pkt h.epoch]
  exact State.packetFailure_congr ty (h.le32 0) (h.le32 4) hlength (h.le32 12) hpayload h.cfg

theorem ExecOutcome.samePacket {i : Instr} {s t : State} (h : ExecOutcome s i t)
    (hpbw : ∀ off byte, i = .pbw off byte → s.cfg.pktCapacity ≤ off.toNat) : SamePacket s t := by
  obtain ⟨hcfg, -, -, hepoch⟩ := h.sameSurroundings
  exact ⟨h.pkt_eq_of_pbw_refused hpbw, hepoch, hcfg⟩

/-- A run without an accepted `PBW` leaves what `PARSE` looks at. The parameters stay too, so that a `PBW` refused at the
start would be refused at every point of the run. -/
theorem runCommands_samePacket {is : List Instr} {s t : State} (h : runCommands is s = .next t)
    (hpbw : ∀ off byte, .pbw off byte ∈ is → s.cfg.pktCapacity ≤ off.toNat) : SamePacket s t := by
  refine runCommands_keeps (P := SamePacket s) (fun i hi u v hu hv => ?_) ⟨rfl, rfl, rfl⟩ h
  refine hu.trans ((exec_outcome hv).samePacket fun off byte heq => ?_)
  rw [hu.cfg]
  exact hpbw off byte (heq ▸ hi)

/-- On the same packet `PARSE` answers the same and leaves the same in its three result registers (R133, R134). -/
theorem SamePacket.exec_parse {s t u : State} {ty : Word} (hu : SamePacket s u) (h : exec (.parse ty) s = .next t) :
    ∃ r, Responds s t r ∧
      exec (.parse ty) u = .next ((u.setPktResult t.pktStatus t.pktLen t.pktType).respond r) := by
  have hfailure := hu.packetFailure ty
  have hlength : u.pktLength = s.pktLength := hu.le32 8
  cases exec_outcome h with
  | parseFailed _ r hr =>
    refine ⟨.fail r, s.raiseFail_rspPort r, ?_⟩
    simp only [exec, execParse, hfailure, hr]
    rcases State.packetFailure_some hr with rfl | rfl | rfl | rfl <;> rfl
  | parseValid _ hr =>
    refine ⟨.okay s.pktLength false [], rfl, ?_⟩
    simp only [exec, execParse, hfailure, hr, hlength]
    rfl

/-- Settles O27: the commands between leave what `PARSE` looks at, and on the same packet it does the same. -/
theorem parseIsIdempotent : Obligations.ParseIsIdempotent := by
  intro s t ty between hparse hbetween
  have hst : SamePacket s t := (exec_outcome hparse).samePacket (by simp)
  obtain ⟨u, -, hrun, -, -⟩ := runCommands_completes between t
  have hsu : SamePacket s u := hst.trans (runCommands_samePacket hrun (by rwa [hst.cfg]))
  obtain ⟨r, hr, hagain⟩ := hsu.exec_parse hparse
  exact ⟨u, r, hrun, hr, hsu.read, hagain⟩

/-! ## Chunks (R151, R157, R163) -/

theorem chunkInvalid_eq_false {count expected : Word} {len : Nat} (h0 : len ≠ 0) (h : count.toNat + len ≤ expected.toNat) :
    chunkInvalid count len expected = false := by
  simp [chunkInvalid, h0, h]

theorem exec_dlann_of_fits {s : State} {size : Word} (h0 : size ≠ 0#32) (h : size.toNat ≤ s.cfg.fbBufSize) :
    exec (.dlann size) s = .next ((s.announce .download size).respond (.size size)) := by
  simp [exec, execDlann, State.announceChecked, h0, Nat.not_lt.mpr h]

theorem exec_ulann_of_fits {s : State} {size : Word} (h0 : size ≠ 0#32) (h : size.toNat ≤ s.cfg.ulSrcSize) :
    exec (.ulann size) s = .next ((s.announce .upload size).respond (.size size)) := by
  simp [exec, execUlann, State.announceChecked, h0, Nat.not_lt.mpr h]

/-! ## A download in chunks (R59, R160) -/

/-- What taking the bytes `data` into STG does, in however many chunks they come. -/
structure Downloaded (data : List Byte) (s t : State) : Prop where
  expected : t.bytesExpected = s.bytesExpected
  received : t.bytesReceived.toNat = s.bytesReceived.toNat + data.length
  stg : t.stg = s.stg.writeBytes s.bytesReceived.toNat data
  epoch : t.epoch = s.epoch

theorem Memory.writeBytes_append (m : Memory) (a : Nat) (xs ys : List Byte) :
    m.writeBytes a (xs ++ ys) = (m.writeBytes a xs).writeBytes (a + xs.length) ys := by
  induction xs generalizing m a with
  | nil => rfl
  | cons x xs ih =>
    simp only [List.cons_append, Memory.writeBytes, ih, List.length_cons]
    rw [Nat.add_assoc, Nat.add_comm 1]

theorem Downloaded.append {xs ys : List Byte} {s t u : State} (hx : Downloaded xs s t) (hy : Downloaded ys t u) :
    Downloaded (xs ++ ys) s u where
  expected := hy.expected.trans hx.expected
  received := by rw [hy.received, hx.received, List.length_append, Nat.add_assoc]
  stg := by rw [hy.stg, hx.stg, hx.received, Memory.writeBytes_append]
  epoch := hy.epoch.trans hx.epoch

theorem State.downloaded_downloadChunk {s : State} {data : List Byte}
    (hc : chunkInvalid s.bytesReceived data.length s.bytesExpected = false) :
    Downloaded data s (s.downloadChunk data) :=
  ⟨rfl, (toNat_chunk_counter hc).1, rfl, rfl⟩

theorem State.accepts_downloadChunk {s : State} (ha : s.accepts .download = true) (data : List Byte) :
    (s.downloadChunk data).accepts .download = true :=
  (State.accepts_iff _ _).mpr ⟨.inr rfl, ((s.accepts_iff _).mp ha).2⟩

theorem exec_dlchk_of_accepted {s : State} {data : List Byte} (ha : s.accepts .download = true)
    (hc : chunkInvalid s.bytesReceived data.length s.bytesExpected = false) :
    exec (.dlchk data) s = .next (s.downloadChunk data) := by
  simp [exec, execDlchk, ha, hc]

/-- Non-empty chunks that fit the announced size are all accepted, and do what their bytes in one chunk would. -/
theorem runCommands_dlchk {chunks : List (List Byte)} {s : State} (ha : s.accepts .download = true)
    (hne : ∀ c ∈ chunks, c ≠ []) (hfit : s.bytesReceived.toNat + chunks.flatten.length ≤ s.bytesExpected.toNat) :
    ∃ t, runCommands (chunks.map .dlchk) s = .next t ∧ Downloaded chunks.flatten s t ∧ t.accepts .download = true ∧
      t.fbPhase = if chunks = [] then s.fbPhase else .transferring := by
  induction chunks generalizing s with
  | nil => exact ⟨s, rfl, ⟨rfl, rfl, rfl, rfl⟩, ha, rfl⟩
  | cons c cs ih =>
    obtain ⟨hc, hcs⟩ := List.forall_mem_cons.mp hne
    rw [List.flatten_cons, List.length_append, ← Nat.add_assoc] at hfit
    have hvalid : chunkInvalid s.bytesReceived c.length s.bytesExpected = false :=
      chunkInvalid_eq_false (by simpa using hc) (by omega)
    have hfirst := State.downloaded_downloadChunk hvalid
    obtain ⟨t, hrun, hrest, hta, hphase⟩ := ih (State.accepts_downloadChunk ha c) hcs
      (by rwa [hfirst.received, hfirst.expected])
    refine ⟨t, ?_, hfirst.append hrest, hta, ?_⟩
    · rw [List.map_cons, runCommands_cons_next (exec_dlchk_of_accepted ha hvalid), hrun]
    · simpa [State.downloadChunk] using hphase

/-- A chunk stored reads back as it was sent. -/
theorem State.readBytes_storeStg (s : State) (off : Nat) (data : List Byte) :
    (s.storeStg off data).readBytes .stg off data.length = data :=
  List.ext_getElem (by simp) fun k _ hk => by rw [State.readBytes_getElem, State.read_storeStg_in s off k data hk]

/-- After a download STG reads as after one store of all its bytes. -/
theorem Downloaded.read_stg {data : List Byte} {s t : State} (h : Downloaded data s t) (a : Nat) :
    t.read .stg a = (s.storeStg s.bytesReceived.toNat data).read .stg a :=
  State.read_congr (s := s.storeStg s.bytesReceived.toNat data) (sp := .stg) h.stg h.epoch a

theorem exec_dlend_of_accepted {s : State} (ha : s.accepts .download = true) :
    exec .dlend s = .next ({ s.finishTransfer with imageSize := s.bytesReceived }.respondOkay s.bytesReceived) := by
  simp [exec, execDlend, ha]

/-- Settles O41, by induction on the chunks from the announced state, where the counter is zero. -/
theorem downloadFillsStagingBuffer : Obligations.DownloadFillsStagingBuffer := by
  intro s size chunks h0 hsize hne hfit
  obtain ⟨t, hrun, hdone, ha, hphase⟩ :=
    runCommands_dlchk (s := (s.announce .download size).respond (.size size)) rfl hne (by simpa using hfit)
  refine ⟨t, _, ?_, hdone.expected, by simpa using hdone.received, ((t.accepts_iff _).mp ha).2, hphase, ?_,
    fun a hle => ?_, exec_dlend_of_accepted ha, by simpa using hdone.received, rfl⟩
  · rw [runCommands_cons_next (exec_dlann_of_fits h0 hsize), hrun]
  · rw [State.readBytes_ext fun k _ => hdone.read_stg (0 + k)]
    exact State.readBytes_storeStg _ _ _
  · rw [hdone.read_stg, State.read_storeStg_out _ _ _ _ (.inr (by simpa using hle))]
    rfl

/-! ## An upload in chunks (R60, R164) -/

/-- What sending `n` bytes of SRC in the responses `rs` does, in however many chunks they go. -/
structure Uploaded (n : Nat) (rs : List Response) (s t : State) : Prop where
  responses : t.rspPort = s.rspPort ++ rs
  data : rs.flatMap Response.dataPhase = s.readBytes .src s.bytesSent.toNat n
  sent : t.bytesSent.toNat = s.bytesSent.toNat + n
  expected : t.bytesExpected = s.bytesExpected
  image : t.imageSize = s.imageSize
  memory : SameMemory s t

theorem Uploaded.append {m n : Nat} {qs rs : List Response} {s t u : State} (hq : Uploaded m qs s t)
    (hr : Uploaded n rs t u) : Uploaded (m + n) (qs ++ rs) s u where
  responses := by rw [hr.responses, hq.responses, List.append_assoc]
  data := by
    rw [List.flatMap_append, hq.data, hr.data, hq.sent, State.readBytes_add,
      State.readBytes_ext fun k _ => hq.memory .src (s.bytesSent.toNat + m + k)]
  sent := by rw [hr.sent, hq.sent, Nat.add_assoc]
  expected := hr.expected.trans hq.expected
  image := hr.image.trans hq.image
  memory sp a := (hr.memory sp a).trans (hq.memory sp a)

theorem State.uploaded_uploadChunk {s : State} {len : Nat} (hc : chunkInvalid s.bytesSent len s.bytesExpected = false) :
    ∃ r, Uploaded len [r] s (s.uploadChunk len) :=
  ⟨_, rfl, by simp [Response.dataPhase], (toNat_chunk_counter hc).1, rfl, rfl, .of_lists rfl rfl rfl rfl⟩

theorem State.accepts_uploadChunk {s : State} (ha : s.accepts .upload = true) (len : Nat) :
    (s.uploadChunk len).accepts .upload = true :=
  (State.accepts_iff _ _).mpr ⟨.inr rfl, ((s.accepts_iff _).mp ha).2⟩

theorem exec_ulchk_of_accepted {s : State} {len : Word} (ha : s.accepts .upload = true)
    (hc : chunkInvalid s.bytesSent len.toNat s.bytesExpected = false) :
    exec (.ulchk len) s = .next (s.uploadChunk len.toNat) := by
  simp [exec, execUlchk, ha, hc]

/-- Non-zero lengths that fit the announced size are all accepted, and send what their sum in one chunk would. -/
theorem runCommands_ulchk {lens : List Word} {s : State} (ha : s.accepts .upload = true) (hne : ∀ l ∈ lens, l ≠ 0#32)
    (hfit : s.bytesSent.toNat + (lens.map BitVec.toNat).sum ≤ s.bytesExpected.toNat) :
    ∃ t rs, runCommands (lens.map .ulchk) s = .next t ∧ rs.length = lens.length ∧
      Uploaded (lens.map BitVec.toNat).sum rs s t := by
  induction lens generalizing s with
  | nil => exact ⟨s, [], rfl, rfl, by simp, rfl, rfl, rfl, rfl, fun _ _ => rfl⟩
  | cons l ls ih =>
    obtain ⟨hl, hls⟩ := List.forall_mem_cons.mp hne
    rw [List.map_cons, List.sum_cons, ← Nat.add_assoc] at hfit
    have hvalid : chunkInvalid s.bytesSent l.toNat s.bytesExpected = false :=
      chunkInvalid_eq_false (fun h => hl (BitVec.eq_of_toNat_eq h)) (by omega)
    obtain ⟨r, hfirst⟩ := State.uploaded_uploadChunk hvalid
    obtain ⟨t, rs, hrun, hlen, hrest⟩ := ih (State.accepts_uploadChunk ha l.toNat) hls
      (by rwa [hfirst.sent, hfirst.expected])
    refine ⟨t, r :: rs, ?_, by simp [hlen], hfirst.append hrest⟩
    rw [List.map_cons, runCommands_cons_next (exec_ulchk_of_accepted ha hvalid), hrun]

/-- Settles O42, by induction on the lengths from the announced state, where the counter is zero. -/
theorem uploadSendsSourceInOrder : Obligations.UploadSendsSourceInOrder := by
  intro s size lens h0 hsize hne hfit
  obtain ⟨t, rs, hrun, hlen, hdone⟩ :=
    runCommands_ulchk (s := (s.announce .upload size).respond (.size size)) rfl hne (by simpa using hfit)
  have hsame : SameMemory s ((s.announce .upload size).respond (.size size)) := .of_lists rfl rfl rfl rfl
  refine ⟨t, rs, ?_, by simpa using hdone.responses, hlen, ?_, by simpa using hdone.sent, hdone.expected, hdone.image,
    fun sp a => (hdone.memory sp a).trans (hsame sp a)⟩
  · rw [runCommands_cons_next (exec_ulann_of_fits h0 hsize), hrun]
  · rw [hdone.data]
    exact State.readBytes_ext fun k _ => hsame .src (0 + k)

end Sys2Proof.Machine
end

section
/-! The encodings of commands (spec/30_encoding.md R81 to R95, R102): the fields of a word under the masks of R91, the word of
each command, and the round trip of the decoder and the encoder on one word and on the stream. -/

namespace Sys2Proof

/-! ## Bits of a field -/

/-- The bits of a field, counted from the start of the field and from the start of the word. -/
theorem extractLsb'_extractLsb' {w : Nat} (x : BitVec w) {start len k n : Nat} (h : k + n ≤ len) :
    (x.extractLsb' start len).extractLsb' k n = x.extractLsb' (start + k) n := by
  ext i hi
  simp [Nat.add_assoc, show k + i < len by omega]

theorem wordA_extractLsb' (w : Frame) {k n : Nat} (h : k + n ≤ 24) :
    (wordA w).extractLsb' k n = w.extractLsb' (32 + k) n :=
  extractLsb'_extractLsb' w h

theorem wordB_extractLsb' (w : Frame) {n : Nat} (h : n ≤ 32) : (wordB w).extractLsb' 0 n = w.extractLsb' 0 n :=
  extractLsb'_extractLsb' w (by omega)

/-- An operand comes back from the field it was zero extended into. -/
theorem extractLsb'_setWidth_self {w m : Nat} (h : w ≤ m) (v : BitVec w) : (v.setWidth m).extractLsb' 0 w = v := by
  rw [BitVec.extractLsb'_setWidth_of_le (by omega), BitVec.extractLsb'_eq_self]

theorem extractLsb'_setWidth_of_ge {w m k n : Nat} (h : w ≤ k) (v : BitVec w) : (v.setWidth m).extractLsb' k n = 0#n := by
  ext i hi
  simp [BitVec.getLsbD_of_ge v (k + i) (by omega)]

/-- A field whose high bits are zero is its low bits, zero extended. -/
theorem setWidth_extractLsb'_of_high_eq_zero {n k : Nat} {x : BitVec (n + k)} (h : x.extractLsb' k n = 0#n) :
    (x.extractLsb' 0 k).setWidth (n + k) = x := by
  rw [BitVec.setWidth_eq_append (by omega)]
  conv_rhs => rw [← BitVec.extractLsb'_append_extractLsb' (x := x), h]
  simp

/-- The high bits of a field are zero exactly when the mask over them gives zero. -/
theorem extractLsb'_high_eq_zero_iff {n k : Nat} (x : BitVec (n + k)) :
    x.extractLsb' k n = 0#n ↔ x &&& (BitVec.allOnes n ++ 0#k) = 0#(n + k) := by
  conv_rhs => rw [← BitVec.extractLsb'_append_extractLsb' (x := x)]
  rw [BitVec.and_append, BitVec.and_allOnes, BitVec.and_zero, ← BitVec.zero_append_zero, BitVec.append_left_inj]

/-- The bytes of a word on the wire are its bits, eight by eight from the lowest (R81). -/
theorem leBytes_word (w : Frame) :
    leBytes 8 w.toNat =
      [w.extractLsb' 0 8, w.extractLsb' 8 8, w.extractLsb' 16 8, w.extractLsb' 24 8, w.extractLsb' 32 8,
        w.extractLsb' 40 8, w.extractLsb' 48 8, w.extractLsb' 56 8] := by
  simp [leBytes, BitVec.extractLsb', Nat.shiftRight_eq_div_pow, Nat.div_div_eq_div_mul]

/-! ## The masks of R91, by format -/

/-- The must-be-zero bits of a format in operand field `a` (R82), which the masks of its rows have there
(`Opcode.maskBits_eq`). -/
def Format.maskA : Format → BitVec 24
  | .z | .w | .wd | .h | .y => 0xFFFFFF#24
  | .aw | .a => 0xFFFF00#24

/-- The must-be-zero bits of a format in operand field `b` (R82), which the masks of its rows have there
(`Opcode.maskBits_eq`). -/
def Format.maskB : Format → Word
  | .z | .a => 0xFFFFFFFF#32
  | .w | .wd | .aw => 0#32
  | .h => 0xFFFF0000#32
  | .y => 0xFFFFFF00#32

theorem Opcode.maskBits_eq (o : Opcode) : o.maskBits = joinWord 0xFF#8 o.format.maskA o.format.maskB := by
  cases o <;> rfl

theorem Opcode.matchBits_eq (o : Opcode) : o.matchBits = joinWord o.code 0#24 0#32 := by
  cases o <;> rfl

theorem Format.reservedClear_iff (f : Format) (a : BitVec 24) (b : Word) :
    f.reservedClear a b = true ↔ a &&& f.maskA = 0#24 ∧ b &&& f.maskB = 0#32 := by
  have allA : a &&& 0xFFFFFF#24 = a := BitVec.and_allOnes
  have allB : b &&& 0xFFFFFFFF#32 = b := BitVec.and_allOnes
  have highA : a.extractLsb' 8 16 = 0#16 ↔ a &&& 0xFFFF00#24 = 0#24 := extractLsb'_high_eq_zero_iff (n := 16) (k := 8) a
  have highB : b.extractLsb' 16 16 = 0#16 ↔ b &&& 0xFFFF0000#32 = 0#32 :=
    extractLsb'_high_eq_zero_iff (n := 16) (k := 16) b
  have highB' : b.extractLsb' 8 24 = 0#24 ↔ b &&& 0xFFFFFF00#32 = 0#32 :=
    extractLsb'_high_eq_zero_iff (n := 24) (k := 8) b
  cases f <;> simp [Format.reservedClear, Format.maskA, Format.maskB, allA, allB, highA, highB, highB']

theorem eq_joinWord_iff {w : Frame} {op : BitVec 8} {a : BitVec 24} {b : Word} :
    w = joinWord op a b ↔ wordOp w = op ∧ wordA w = a ∧ wordB w = b := by
  constructor
  · rintro rfl
    exact ⟨wordOp_joinWord op a b, wordA_joinWord op a b, wordB_joinWord op a b⟩
  · rintro ⟨rfl, rfl, rfl⟩
    exact (joinWord_fields w).symm

/-- The two readings of R91 agree: the masked bits of a word match a row exactly when the word has the row's opcode and the
must-be-zero bits of the row's format are clear. -/
theorem and_maskBits_eq_matchBits_iff (w : Frame) (o : Opcode) :
    w &&& o.maskBits = o.matchBits ↔ wordOp w = o.code ∧ o.format.reservedClear (wordA w) (wordB w) = true := by
  have hop : wordOp w &&& 0xFF#8 = wordOp w := BitVec.and_allOnes
  have and_op (v : Frame) : wordOp (w &&& v) = wordOp w &&& wordOp v := BitVec.extractLsb'_and
  have and_a (v : Frame) : wordA (w &&& v) = wordA w &&& wordA v := BitVec.extractLsb'_and
  have and_b (v : Frame) : wordB (w &&& v) = wordB w &&& wordB v := BitVec.extractLsb'_and
  rw [o.maskBits_eq, o.matchBits_eq, eq_joinWord_iff, Format.reservedClear_iff, and_op, and_a, and_b, wordOp_joinWord,
    wordA_joinWord, wordB_joinWord, hop]

/-! ## Words of a row and words of none (R91, R92) -/

theorem Opcode.code_injective : Function.Injective Opcode.code := fun o p h => by
  simpa using congrArg Opcode.ofCode? h

theorem decodeWord_of_match {w : Frame} {o : Opcode} (h : w &&& o.maskBits = o.matchBits) :
    decodeWord w = .ok (o.head (wordA w) (wordB w)) := by
  obtain ⟨hop, hclear⟩ := (and_maskBits_eq_matchBits_iff w o).mp h
  rw [decodeWord_of_code w o hop, if_pos hclear]

theorem decodeWord_error_of_no_match {w : Frame} (h : ∀ o : Opcode, w &&& o.maskBits ≠ o.matchBits) :
    ∃ why, decodeWord w = .error why := by
  cases hd : decodeWord w with
  | error why => exact ⟨why, rfl⟩
  | ok head =>
    obtain ⟨o, hop, hclear, -⟩ := (decodeWord_ok_iff w head).mp hd
    exact absurd ((and_maskBits_eq_matchBits_iff w o).mpr ⟨hop, hclear⟩) (h o)

theorem no_match_of_unassigned {w : Frame} (h : ∀ o : Opcode, wordOp w ≠ o.code) (o : Opcode) :
    w &&& o.maskBits ≠ o.matchBits :=
  fun hmatch => h o ((and_maskBits_eq_matchBits_iff w o).mp hmatch).1

/-- A word with a must-be-zero bit of its row set matches no row: not its own, and no other has its opcode (R93). -/
theorem no_match_of_reserved_set {w : Frame} {o : Opcode} (hop : wordOp w = o.code)
    (h : w &&& (o.maskBits &&& 0x00FFFFFFFFFFFFFF#64) ≠ 0#64) (p : Opcode) : w &&& p.maskBits ≠ p.matchBits := by
  intro hmatch
  obtain ⟨hop', -⟩ := (and_maskBits_eq_matchBits_iff w p).mp hmatch
  obtain rfl : p = o := Opcode.code_injective (hop'.symm.trans hop)
  apply h
  rw [← BitVec.and_assoc, hmatch]
  cases p <;> rfl

/-! ## The word of a command (R82, R91) -/

/-- The word that gives a head (`word_of_decodeWord`). -/
def Head.word : Head → Frame
  | .whole i => encodeWord i
  | .withData len => joinWord Opcode.dlchk.code 0#24 len

/-- The head that the word of a command gives (`decodeWord_encodeWord`). -/
def Instr.head (i : Instr) : Head :=
  match i with
  | .dlchk _ => .withData i.fieldB
  | _ => .whole i

theorem Instr.reservedClear_fields (i : Instr) : i.opcode.format.reservedClear i.fieldA i.fieldB = true := by
  cases i <;> simp [Instr.opcode, Opcode.format, Format.reservedClear, Instr.fieldA, Instr.fieldB,
    extractLsb'_setWidth_of_ge]

theorem Instr.head_fields (i : Instr) : i.opcode.head i.fieldA i.fieldB = i.head := by
  cases i <;> simp [Instr.opcode, Opcode.head, Instr.fieldA, Instr.fieldB, Instr.head, extractLsb'_setWidth_self]

theorem decodeWord_joinWord {o : Opcode} {a : BitVec 24} {b : Word} (h : o.format.reservedClear a b = true) :
    decodeWord (joinWord o.code a b) = .ok (o.head a b) := by
  rw [decodeWord_of_code _ o (wordOp_joinWord _ _ _), wordA_joinWord, wordB_joinWord, if_pos h]

theorem decodeWord_encodeWord (i : Instr) : decodeWord (encodeWord i) = .ok i.head := by
  rw [encodeWord, decodeWord_joinWord i.reservedClear_fields, i.head_fields]

/-- The operands of a row are all of a word whose must-be-zero bits are clear: the encoder puts the fields back. -/
theorem Opcode.head_word {o : Opcode} {a : BitVec 24} {b : Word} (h : o.format.reservedClear a b = true) :
    (o.head a b).word = joinWord o.code a b := by
  have lowA : a.extractLsb' 8 16 = 0#16 → (a.extractLsb' 0 8).setWidth 24 = a :=
    setWidth_extractLsb'_of_high_eq_zero (n := 16) (k := 8)
  have lowB : b.extractLsb' 16 16 = 0#16 → (b.extractLsb' 0 16).setWidth 32 = b :=
    setWidth_extractLsb'_of_high_eq_zero (n := 16) (k := 16)
  have lowB' : b.extractLsb' 8 24 = 0#24 → (b.extractLsb' 0 8).setWidth 32 = b :=
    setWidth_extractLsb'_of_high_eq_zero (n := 24) (k := 8)
  cases o <;> simp_all [Opcode.format, Format.reservedClear, Opcode.head, Head.word, encodeWord, Instr.opcode,
    Instr.fieldA, Instr.fieldB]

theorem word_of_decodeWord {w : Frame} {head : Head} (h : decodeWord w = .ok head) : head.word = w := by
  obtain ⟨o, hop, hclear, rfl⟩ := (decodeWord_ok_iff w head).mp h
  rw [Opcode.head_word hclear, ← hop, joinWord_fields]

/-! ## The stream (R81, R95, R102) -/

theorem length_of_decode_command {bs rest : List Byte} {i : Instr} (h : decode bs = .command i rest) : 8 ≤ bs.length := by
  by_contra hshort
  rw [decode_of_short (by omega)] at h
  cases h

/-- Eight bytes or more begin with the bytes of a word (R81). -/
theorem exists_word_of_length {bs : List Byte} (h : 8 ≤ bs.length) :
    ∃ (w : Frame) (rest : List Byte), bs = leBytes 8 w.toNat ++ rest := by
  have hlt := leNat_lt (bs.take 8)
  have hbytes := leBytes_leNat (bs.take 8)
  rw [List.length_take_of_le h] at hlt hbytes
  have hvalue : (BitVec.ofNat 64 (leNat (bs.take 8))).toNat = leNat (bs.take 8) :=
    (BitVec.toNat_ofNat _ _).trans (Nat.mod_eq_of_lt hlt)
  refine ⟨BitVec.ofNat 64 (leNat (bs.take 8)), bs.drop 8, ?_⟩
  rw [hvalue, hbytes, List.take_append_drop]

/-- The operand `len` of a `DLCHK` that has an encoding is the number of its data bytes (R88). -/
theorem toNat_fieldB_dlchk {data : List Byte} (h : (Instr.dlchk data).WellFormed) :
    (Instr.dlchk data).fieldB.toNat = data.length :=
  (BitVec.toNat_ofNat _ _).trans (Nat.mod_eq_of_lt h)

/-- The word of a whole command is all of its encoding. -/
theorem encode_of_decodeWord_whole {w : Frame} {i : Instr} (h : decodeWord w = .ok (.whole i)) :
    i.WellFormed ∧ encode i = leBytes 8 w.toNat := by
  obtain ⟨o, -, -, hhead⟩ := (decodeWord_ok_iff w _).mp h
  obtain ⟨hwf, hdata⟩ : i.WellFormed ∧ i.dataPhase = [] := by cases o <;> cases hhead <;> exact ⟨trivial, rfl⟩
  have hword : encodeWord i = w := word_of_decodeWord h
  exact ⟨hwf, by rw [encode, hword, hdata, List.append_nil]⟩

/-- The word of a `DLCHK` and `len` bytes after it are the encoding of the `DLCHK` of these bytes (R95). -/
theorem encode_of_decodeWord_withData {w : Frame} {len : Word} {data : List Byte}
    (h : decodeWord w = .ok (.withData len)) (hlen : data.length = len.toNat) :
    (Instr.dlchk data).WellFormed ∧ encode (.dlchk data) = leBytes 8 w.toNat ++ data := by
  have hwf : (Instr.dlchk data).WellFormed := by
    simpa only [Instr.WellFormed, hlen] using len.isLt
  have hfield : (Instr.dlchk data).fieldB = len := BitVec.eq_of_toNat_eq ((toNat_fieldB_dlchk hwf).trans hlen)
  have hword : encodeWord (.dlchk data) = w := by
    rw [← word_of_decodeWord h, encodeWord, hfield]
    rfl
  exact ⟨hwf, by rw [encode, hword]; rfl⟩

/-- A data phase that is not all there (R102). -/
theorem decode_of_data_missing {len : Word} {data : List Byte} (h : data.length < len.toNat) :
    decode (leBytes 8 (joinWord 0x31#8 0#24 len).toNat ++ data) = .waiting := by
  have hw : decodeWord (joinWord 0x31#8 0#24 len) = .ok (.withData len) := decodeWord_joinWord (o := .dlchk) rfl
  rw [decode_word, hw]
  exact if_neg (by omega)

/-- Part of a command's encoding ends inside the word or, for a `DLCHK` alone, inside the data phase (R102). -/
theorem decode_take_encode {i : Instr} {n : Nat} (hwf : i.WellFormed) (hn : n < (encode i).length) :
    decode ((encode i).take n) = .waiting := by
  rcases Nat.lt_or_ge n 8 with hword | hdata
  · exact decode_of_short (by rw [List.length_take]; omega)
  · rw [encode_length] at hn
    cases i with
    | dlchk data =>
      have hpart : (encode (.dlchk data)).take n =
          leBytes 8 (joinWord 0x31#8 0#24 (Instr.dlchk data).fieldB).toNat ++ data.take (n - 8) := by
        rw [encode, List.take_append, leBytes_length, List.take_of_length_le (by simpa using hdata)]
        rfl
      rw [hpart]
      apply decode_of_data_missing
      simp only [Instr.dataPhase] at hn
      rw [toNat_fieldB_dlchk hwf, List.length_take]
      omega
    | _ => simp only [Instr.dataPhase, List.length_nil] at hn; omega

/-! ## The obligations -/

/-- Settles O3: the word gives the command's head back, and a `DLCHK` takes as many bytes as it has. -/
theorem decodeOfEncode : Obligations.DecodeOfEncode := by
  intro i rest hwf
  rw [encode, List.append_assoc, decode_word, decodeWord_encodeWord]
  cases i with
  | dlchk data => simp [Instr.head, Instr.dataPhase, toNat_fieldB_dlchk hwf]
  | _ => rfl

/-- Settles O4, by cases on the head of the word that the stream begins with. -/
theorem encodeOfDecode : Obligations.EncodeOfDecode := by
  intro bs i rest h
  obtain ⟨w, tail, rfl⟩ := exists_word_of_length (length_of_decode_command h)
  rw [decode_word] at h
  split at h
  case h_1 => cases h
  case h_2 j hw =>
    cases h
    obtain ⟨hwf, hencode⟩ := encode_of_decodeWord_whole hw
    exact ⟨hwf, by rw [hencode]⟩
  case h_3 len hw =>
    split at h
    case isFalse => cases h
    case isTrue hle =>
      cases h
      obtain ⟨hwf, hencode⟩ := encode_of_decodeWord_withData hw (List.length_take_of_le hle)
      exact ⟨hwf, by rw [hencode, List.append_assoc, List.take_append_drop]⟩

/-- Settles O2: a row that matches gives its operands, whose bits are counted from the start of the word. -/
theorem decodeFollowsOpcodeMap : Obligations.DecodeFollowsOpcodeMap := by
  intro w
  have seed : (wordB w).extractLsb' 0 16 = w.extractLsb' 0 16 := wordB_extractLsb' w (by decide)
  have byteB : (wordB w).extractLsb' 0 8 = w.extractLsb' 0 8 := wordB_extractLsb' w (by decide)
  have byteA : (wordA w).extractLsb' 0 8 = w.extractLsb' 32 8 := wordA_extractLsb' w (by decide)
  rw [← seed, ← byteB, ← byteA]
  exact ⟨decodeWord_of_match (o := .crcseed), decodeWord_of_match (o := .crcbyte), decodeWord_of_match (o := .pbw),
    decodeWord_of_match (o := .parse), decodeWord_of_match (o := .dlann), decodeWord_of_match (o := .dlchk),
    decodeWord_of_match (o := .dlend), decodeWord_of_match (o := .ulann), decodeWord_of_match (o := .ulchk),
    decodeWord_of_match (o := .ulend), decodeWord_of_match (o := .rdreg), decodeWord_of_match (o := .mrd),
    decodeWord_of_match (o := .srst), decodeWord_error_of_no_match⟩

/-- Settles O1: the fields of a joined word, and the bytes of a word. -/
theorem commandWordFieldsAndWireOrder : Obligations.CommandWordFieldsAndWireOrder :=
  ⟨fun op a b => ⟨wordOp_joinWord op a b, wordA_joinWord op a b, wordB_joinWord op a b⟩, leBytes_word⟩

/-- Settles O5: each word, evaluated. -/
theorem decodesWordsOfTheSpec : Obligations.DecodesWordsOfTheSpec := by
  unfold Obligations.DecodesWordsOfTheSpec
  decide +kernel

end Sys2Proof

namespace Sys2Proof.Machine

/-! ## What the step takes from the port (R92, R95, R102) -/

/-- Settles O6: a word without a row decodes to no command, and a row would need its opcode and its clear bits. -/
theorem illegalWordIsAnsweredAndChangesNothing : Obligations.IllegalWordIsAnsweredAndChangesNothing := by
  refine ⟨fun s w rest hr hport hnone => ?_, fun _ => no_match_of_unassigned, fun _ _ => no_match_of_reserved_set,
    no_match_of_unassigned fun o => by cases o <;> decide, no_match_of_unassigned fun o => by cases o <;> decide⟩
  obtain ⟨why, hw⟩ := decodeWord_error_of_no_match hnone
  have hd : decode s.cmdPort = .illegal why rest := by rw [hport, decode_word, hw]
  exact step_of_illegal hr hd

/-- Settles O8: the encoded command is what the step decodes, and a command leaves the port as the taking left it. -/
theorem commandsAreTakenWhole : Obligations.CommandsAreTakenWhole := by
  intro s i rest hwf hr hport
  have hd : decode s.cmdPort = .command i rest := hport ▸ decodeOfEncode i rest hwf
  obtain ⟨t, -, ht, -, -, hcmd, -⟩ := exec_completes_with_one_response i (s.takeCommand rest)
  refine ⟨?_, t, (step_of_command hr hd).trans ht, hcmd⟩
  cases i <;> exact encode_length _

theorem step_of_port_empty {s : State} (hr : s.resetPin = false) (hp : s.cmdPort = []) : step s = .fault .portEmpty := by
  simp [step, State.nextEvent, hr, hp, decode_of_short]

/-- Settles O9: each of the streams decodes to `waiting`, and only the first is empty. -/
theorem incompleteCommandWaits : Obligations.IncompleteCommandWaits := by
  intro s hr
  have waits (hne : s.cmdPort ≠ []) (hd : decode s.cmdPort = .waiting) : step s = .fault .commandIncomplete := by
    rw [step_of_waiting hne hd, hr]
    rfl
  refine ⟨fun hempty => ?_, fun hpos hshort => ?_, fun len data hlen hport => ?_, fun i n hwf hpos hn hport => ?_, waits⟩
  · exact step_of_port_empty hr hempty
  · exact waits (List.ne_nil_of_length_pos hpos) (decode_of_short hshort)
  · refine waits (List.ne_nil_of_length_pos ?_) (hport ▸ decode_of_data_missing hlen)
    rw [hport, List.length_append, leBytes_length]
    omega
  · refine waits (List.ne_nil_of_length_pos ?_) (hport ▸ decode_take_encode hwf hn)
    rw [hport, List.length_take]
    omega

end Sys2Proof.Machine
end

section
/-! How a response leaves the block (spec/30_encoding.md R84, R85, R96): the fields of its word, the data after it, its text. -/

namespace Sys2Proof.Machine

/-! ## The fields of the response word (R84) -/

/-- A response word has the three fields of a command word, the middle one cut in two. -/
theorem Response.word_eq_joinWord (r : Response) : r.word = joinWord r.kind (r.reasonCode ++ r.flags) r.value := by
  rw [joinWord, BitVec.setWidth_append_eq_shiftLeft_setWidth_or, BitVec.shiftLeft_or_distrib, ← BitVec.shiftLeft_add,
    ← BitVec.or_assoc]
  rfl

theorem Response.wordA_word (r : Response) : wordA r.word = r.reasonCode ++ r.flags := by
  rw [r.word_eq_joinWord, wordA_joinWord]

theorem Response.word_kind (r : Response) : r.word.extractLsb' 56 8 = r.kind := by
  rw [r.word_eq_joinWord]
  exact wordOp_joinWord _ _ _

theorem Response.word_reasonCode (r : Response) : r.word.extractLsb' 48 8 = r.reasonCode := by
  rw [← wordA_extractLsb' r.word (k := 16) (by decide), r.wordA_word, BitVec.extractLsb'_append_eq_left]

theorem Response.word_flags (r : Response) : r.word.extractLsb' 32 16 = r.flags := by
  rw [← wordA_extractLsb' r.word (k := 0) (by decide), r.wordA_word, BitVec.extractLsb'_append_eq_right]

theorem Response.word_value (r : Response) : r.word.extractLsb' 0 32 = r.value := by
  rw [r.word_eq_joinWord]
  exact wordB_joinWord _ _ _

theorem Response.word_getLsbD_flags (r : Response) {k : Nat} (h : k < 16) :
    r.word.getLsbD (32 + k) = r.flags.getLsbD k := by
  rw [← r.word_flags, BitVec.getLsbD_extractLsb', decide_eq_true h, Bool.true_and]

theorem Response.word_reserved_flags (r : Response) : r.word.extractLsb' 33 15 = 0#15 := by
  have hflags : r.flags = 0#16 ∨ r.flags = 1#16 := by
    cases r with
    | okay v progress data => cases progress <;> simp [Response.flags]
    | _ => exact .inl rfl
  rw [← extractLsb'_extractLsb' (start := 32) (len := 16) (k := 1) r.word (by decide), r.word_flags]
  rcases hflags with hflags | hflags <;> rw [hflags] <;> decide

/-! ## The data and the progress flag of an `OKAY` response (R84, R96) -/

/-- The commands by what their `OKAY` responses carry: a `DLCHK` a progress flag and no data, a `ULCHK` a progress flag and
the bytes of SRC from the counter up, every other command neither. -/
theorem ExecOutcome.okay_cases {i : Instr} {s t : State} {v : Word} {progress : Bool} {data : List Byte}
    (h : ExecOutcome s i t) (hr : Responds s t (.okay v progress data)) :
    ((∃ bytes, i = .dlchk bytes) ∧ data = []) ∨
      (∃ len, i = .ulchk len ∧ data = s.readBytes .src s.bytesSent.toNat len.toNat) ∨
      (i.opcode ∉ [Opcode.dlchk, .ulchk] ∧ progress = false ∧ data = []) := by
  cases h with
  | dlchkAccepted bytes =>
    cases Responds.unique rfl hr
    exact .inl ⟨⟨bytes, rfl⟩, rfl⟩
  | ulchkAccepted len =>
    cases Responds.unique rfl hr
    exact .inr (.inl ⟨len, rfl, rfl⟩)
  | parseFailed ty r h => cases Responds.unique (s.raiseFail_rspPort r) hr
  | _ => cases Responds.unique rfl hr <;> exact .inr (.inr ⟨by simp [Instr.opcode], rfl, rfl⟩)

/-- Settles O10: one lemma a field, by cases on the response, and the kinds of `OKAY` responses. -/
theorem responseWordFields : Obligations.ResponseWordFields := by
  refine ⟨fun r => ⟨?kind, ?reason, ?progress, r.word_reserved_flags, ?value, ?bytes⟩, fun i s t v data h hr => ?flag,
    fun i s t v progress data h hr => ?data⟩
  case kind => rw [r.word_kind]; cases r <;> rfl
  case reason => rw [r.word_reasonCode]; cases r <;> rfl
  case progress =>
    rw [r.word_getLsbD_flags (k := 0) (by decide)]
    cases r with
    | okay v progress data => cases progress <;> simp [Response.flags]
    | _ => simp [Response.flags]
  case value => rw [r.word_value]; cases r <;> rfl
  case bytes => rw [Response.bytes, leBytes_word]; cases r <;> rfl
  case flag =>
    obtain ⟨hi, -⟩ | ⟨len, hi, -⟩ | ⟨-, hp, -⟩ := (exec_outcome h).okay_cases hr
    · exact .inl hi
    · exact .inr ⟨len, hi⟩
    · cases hp
  case data =>
    obtain ⟨⟨bytes, rfl⟩, hdata⟩ | ⟨len, rfl, hdata⟩ | ⟨hi, -, hdata⟩ := (exec_outcome h).okay_cases hr
    · exact hdata
    · exact hdata
    · cases i with
      | ulchk len => simp [Instr.opcode] at hi
      | _ => exact hdata

/-! ## The text of a response (R85) -/

/-- The digits that `hexDigits` writes, as numbers (`hexDigits_eq_map`). -/
def nibbles : Nat → Nat → List (Fin 16)
  | 0, _ => []
  | n + 1, v => Fin.ofNat 16 (v / 16 ^ n) :: nibbles n v

theorem nibbles_length (n v : Nat) : (nibbles n v).length = n := by
  induction n with
  | zero => rfl
  | succ n ih => simp [nibbles, ih]

theorem hexDigits_eq_map (n v : Nat) : hexDigits n v = (nibbles n v).map fun d => hexDigit d.val := by
  induction n with
  | zero => rfl
  | succ n ih => simp [hexDigits, nibbles, ih]

theorem hex8_eq_map (v : Word) : hex8 v = (nibbles 8 v.toNat).map fun d => hexDigit d.val := hexDigits_eq_map 8 v.toNat

/-- Reading the digits most significant first, after the value `acc`, gives the number modulo `16 ^ n`. -/
theorem foldl_nibbles (n v acc : Nat) :
    (nibbles n v).foldl (fun m d => 16 * m + d.val) acc = acc * 16 ^ n + v % 16 ^ n := by
  induction n generalizing acc with
  | zero => simp [nibbles, Nat.mod_one]
  | succ n ih =>
    rw [nibbles, List.foldl_cons, ih, Nat.pow_succ, Nat.mod_mul, Fin.val_ofNat]
    ring

theorem hexDigit_eq_getD (d : Fin 16) :
    hexDigit d.val = ['0', '1', '2', '3', '4', '5', '6', '7', '8', '9', 'a', 'b', 'c', 'd', 'e', 'f'].getD d.val ' ' := by
  decide +revert

theorem ascii_of_mem_hex8 {v : Word} {c : Char} (h : c ∈ hex8 v) : c.toNat < 128 := by
  have hdigit : ∀ d : Fin 16, (hexDigit d.val).toNat < 128 := by decide
  rw [hex8_eq_map] at h
  obtain ⟨d, -, rfl⟩ := List.mem_map.mp h
  exact hdigit d

theorem ascii_of_mem_asciiChars {cs : List (Fin 128)} {c : Char} (h : c ∈ asciiChars cs) : c.toNat < 128 := by
  obtain ⟨k, -, rfl⟩ := List.mem_map.mp h
  rw [Char.toNat_ofNat]
  split <;> omega

theorem Response.text_ascii (r : Response) {c : Char} (h : c ∈ r.text) : c.toNat < 128 := by
  cases r with
  | okay v progress data =>
    have hword : ∀ c ∈ ['O', 'K', 'A', 'Y'], c.toNat < 128 := by simp
    exact hword c h
  | fail reason =>
    have hword : ∀ c ∈ ['F', 'A', 'I', 'L'], c.toNat < 128 := by simp
    exact (List.mem_append.mp h).elim (hword c) ascii_of_mem_asciiChars
  | size v =>
    have hword : ∀ c ∈ ['D', 'A', 'T', 'A'], c.toNat < 128 := by simp
    exact (List.mem_append.mp h).elim (hword c) ascii_of_mem_hex8

/-- Settles O11: the eight digits are those of `nibbles`. -/
theorem responseTextForm : Obligations.ResponseTextForm := by
  refine ⟨fun _ _ _ => rfl, fun _ => rfl, fun r _ => r.text_ascii,
    fun v => ⟨nibbles 8 v.toNat, nibbles_length 8 _, ?_, ?_⟩⟩
  · rw [foldl_nibbles, Nat.zero_mul, Nat.zero_add]
    exact Nat.mod_eq_of_lt v.isLt
  · simp only [Response.text, hex8_eq_map, hexDigit_eq_getD]

end Sys2Proof.Machine
end

section
/-! The text commands (spec/30_encoding.md R99, R100): how each begins, and which sizes are accepted. -/

namespace Sys2Proof.Machine

/-! ## How a text command begins -/

theorem stripPrefix?_append (ps cs : List Char) : stripPrefix? ps (ps ++ cs) = some cs := by
  induction ps with
  | nil => rfl
  | cons p ps ih => rw [List.cons_append, stripPrefix?, if_pos rfl, ih]

theorem textCommand?_download (cs : List Char) :
    textCommand? (['d', 'o', 'w', 'n', 'l', 'o', 'a', 'd', ':'] ++ cs) = (hexSize? cs).map .dlann := by
  simp only [textCommand?, stripPrefix?_append]

theorem textCommand?_ramdump (cs : List Char) :
    textCommand? (['o', 'e', 'm', ' ', 'r', 'a', 'm', 'd', 'u', 'm', 'p', ':'] ++ cs) = (hexSize? cs).map .ulann := by
  have hno : stripPrefix? ['d', 'o', 'w', 'n', 'l', 'o', 'a', 'd', ':']
      (['o', 'e', 'm', ' ', 'r', 'a', 'm', 'd', 'u', 'm', 'p', ':'] ++ cs) = none := rfl
  simp only [textCommand?, hno, stripPrefix?_append]

/-! ## Accepted sizes -/

/-- The character of a digit, in upper case or in lower: what `hexValue?` reads back (`hexValue?_sizeDigit`). -/
def sizeDigit (d : Fin 16 × Bool) : Char :=
  (if d.2 then ['0', '1', '2', '3', '4', '5', '6', '7', '8', '9', 'A', 'B', 'C', 'D', 'E', 'F']
    else ['0', '1', '2', '3', '4', '5', '6', '7', '8', '9', 'a', 'b', 'c', 'd', 'e', 'f']).getD d.1.val ' '

theorem hexValue?_sizeDigit (d : Fin 16 × Bool) : hexValue? (sizeDigit d) = some d.1.val := by
  obtain ⟨digit, upper⟩ := d
  decide +revert

theorem digits?_map_sizeDigit (ds : List (Fin 16 × Bool)) (acc : Nat) :
    digits? 16 hexValue? acc (ds.map sizeDigit) = some (ds.foldl (fun n d => 16 * n + d.1.val) acc) := by
  induction ds generalizing acc with
  | nil => rfl
  | cons d ds ih => simp only [List.map_cons, digits?, hexValue?_sizeDigit, ih, List.foldl_cons, Nat.mul_comm]

theorem hexSize?_map_sizeDigit {ds : List (Fin 16 × Bool)} (h : 1 ≤ ds.length ∧ ds.length ≤ 8) :
    hexSize? (ds.map sizeDigit) = some (BitVec.ofNat 32 (ds.foldl (fun n d => 16 * n + d.1.val) 0)) := by
  rw [hexSize?, List.length_map, if_pos h, digits?_map_sizeDigit, Option.map_some]

/-! ## Refused sizes -/

/-- The characters of which a size is made: no other has a value (`hexValue?_eq_none`). -/
def sizeChars : List Char :=
  ['0', '1', '2', '3', '4', '5', '6', '7', '8', '9', 'A', 'B', 'C', 'D', 'E', 'F', 'a', 'b', 'c', 'd', 'e', 'f']

theorem hexValue?_eq_none {c : Char} (h : c ∉ sizeChars) : hexValue? c = none := by
  simp only [sizeChars, List.mem_cons, List.not_mem_nil, or_false, ← Char.toNat_inj, Char.reduceToNat] at h
  rw [hexValue?, if_neg (by omega), if_neg (by omega), if_neg (by omega)]

theorem digits?_eq_none {base : Nat} {digit? : Char → Option Nat} {c : Char} {cs : List Char} (hc : c ∈ cs)
    (h : digit? c = none) (acc : Nat) : digits? base digit? acc cs = none := by
  induction cs generalizing acc with
  | nil => cases hc
  | cons d ds ih =>
    rw [digits?]
    rcases List.mem_cons.mp hc with rfl | hc
    · rw [h]
    · split
      · exact ih hc _
      · rfl

theorem hexSize?_eq_none {cs : List Char} (h : cs.length = 0 ∨ 8 < cs.length ∨ ∃ c ∈ cs, c ∉ sizeChars) :
    hexSize? cs = none := by
  rcases h with hempty | hlong | ⟨c, hc, hdigit⟩
  · exact if_neg (by omega)
  · exact if_neg (by omega)
  · rw [hexSize?, digits?_eq_none hc (hexValue?_eq_none hdigit), Option.map_none, ite_self]

/-- Settles O12: the words of each command are taken off, and what follows is a size or none. -/
theorem textCommandSizes : Obligations.TextCommandSizes := by
  refine ⟨fun ds hmin hmax => ?_, fun cs hcs => ?_, rfl⟩
  · have hsize := hexSize?_map_sizeDigit ⟨hmin, hmax⟩
    exact ⟨(textCommand?_download _).trans (congrArg _ hsize), (textCommand?_ramdump _).trans (congrArg _ hsize)⟩
  · rw [textCommand?_download, textCommand?_ramdump, hexSize?_eq_none hcs]
    exact ⟨rfl, rfl⟩

end Sys2Proof.Machine
end

section
/-! Unit CRC (spec/40_crc_engine.md): the rounds of R110 as a linear and injective map, the laws of `CRC16` that follow
(R113), and the commands (R114 to R116). -/

namespace Sys2Proof.Machine

/-! ## One round (R110) -/

/-- A round as one exclusive or: the shift, and the constant if bit 15 is set. -/
theorem crcRound_eq_xor (v : Half) : crcRound v = v <<< 1 ^^^ if v.getLsbD 15 then poly else 0#16 := by
  cases h : v.getLsbD 15 with
  | false => simp [crcRound_of_clear h]
  | true => simp [crcRound_of_set h]

theorem crcRound_xor (v w : Half) : crcRound (v ^^^ w) = crcRound v ^^^ crcRound w := by
  have hpoly : ∀ p q : Bool, (if (p ^^ q) then poly else 0#16) = (if p then poly else 0#16) ^^^ if q then poly else 0#16 := by
    decide
  rw [crcRound_eq_xor, crcRound_eq_xor, crcRound_eq_xor, BitVec.getLsbD_xor, hpoly, BitVec.shiftLeft_xor_distrib]
  ac_rfl

/-- The constant is odd, so bit 0 after a round is bit 15 before it. -/
theorem crcRound_getLsbD_zero (v : Half) : (crcRound v).getLsbD 0 = v.getLsbD 15 := by
  cases h : v.getLsbD 15 with
  | false => simp [crcRound_of_clear h]
  | true => simp [crcRound_of_set h, poly]

theorem crcRound_injective : Function.Injective crcRound := by
  intro v w h
  have htop : v.getLsbD 15 = w.getLsbD 15 := by rw [← crcRound_getLsbD_zero, h, crcRound_getLsbD_zero]
  have hshift : v <<< 1 = w <<< 1 := by
    rw [crcRound_eq_xor, crcRound_eq_xor, htop] at h
    exact (BitVec.xor_left_inj _).mp h
  ext k hk
  rcases Nat.lt_or_ge k 15 with hlow | hhigh
  · simpa [show k + 1 < 16 by omega] using congrArg (BitVec.getLsbD · (k + 1)) hshift
  · obtain rfl : k = 15 := by omega
    exact htop

theorem toNat_shiftLeft_one (v : Half) : (v <<< 1).toNat = 2 * v.toNat % 65536 := by
  rw [BitVec.toNat_shiftLeft, Nat.shiftLeft_eq, Nat.pow_one, Nat.mul_comm]

theorem crcRound_toNat (v : Half) :
    (crcRound v).toNat = if 0x8000 ≤ v.toNat then (2 * v.toNat % 65536) ^^^ 0x1021 else 2 * v.toNat % 65536 := by
  have htop : v.getLsbD 15 = decide (0x8000 ≤ v.toNat) := v.msb_eq_decide
  split
  next h => rw [crcRound_of_set (by rw [htop, decide_eq_true h]), BitVec.toNat_xor, toNat_shiftLeft_one]; rfl
  next h => rw [crcRound_of_clear (by rw [htop, decide_eq_false h]), toNat_shiftLeft_one]

/-! ## The eight rounds (R110) -/

/-- The last round split off: `crcRounds` itself recurses on the first. -/
theorem crcRounds_succ_last (n : Nat) (v : Half) : crcRounds (n + 1) v = crcRound (crcRounds n v) := by
  induction n generalizing v with
  | zero => rfl
  | succ n ih => rw [crcRounds_succ, ih, crcRounds_succ]

theorem crcRounds_xor (n : Nat) (v w : Half) : crcRounds n (v ^^^ w) = crcRounds n v ^^^ crcRounds n w := by
  induction n generalizing v w with
  | zero => rfl
  | succ n ih => simp only [crcRounds_succ, crcRound_xor, ih]

theorem crcRounds_injective (n : Nat) : Function.Injective (crcRounds n) := by
  induction n with
  | zero => exact Function.injective_id
  | succ n ih => exact ih.comp crcRound_injective

@[simp] theorem crcRounds_of_zero (n : Nat) : crcRounds n 0#16 = 0#16 := by
  simpa using crcRounds_xor n 0#16 0#16

/-- While no set bit has reached bit 15, the rounds only shift. -/
theorem crcRounds_of_small {n : Nat} {v : Half} (h : v.toNat * 2 ^ n < 65536) : crcRounds n v = v <<< n := by
  induction n generalizing v with
  | zero => rw [crcRounds_zero, BitVec.shiftLeft_zero]
  | succ n ih =>
    have hassoc : v.toNat * 2 ^ (n + 1) = 2 * v.toNat * 2 ^ n := by ring
    have hdouble : 2 * v.toNat < 65536 := (Nat.le_mul_of_pos_right _ (Nat.two_pow_pos n)).trans_lt (hassoc ▸ h)
    have hclear : v.getLsbD 15 = false := v.msb_eq_decide.trans (decide_eq_false (by omega))
    have hshift : (v <<< 1).toNat = 2 * v.toNat := (toNat_shiftLeft_one v).trans (Nat.mod_eq_of_lt hdouble)
    rw [crcRounds_succ, crcRound_of_clear hclear, ih (by rw [hshift, ← hassoc]; exact h), ← BitVec.shiftLeft_add,
      Nat.add_comm]

/-! ## The step (R110) -/

theorem crcStep_xor (c d : Half) (a b : Byte) : crcStep (c ^^^ d) (a ^^^ b) = crcStep c a ^^^ crcStep d b := by
  rw [crcStep, crcStep, crcStep, ← crcRounds_xor, BitVec.setWidth_xor, BitVec.shiftLeft_xor_distrib]
  congr 1
  ac_rfl

theorem crcStep_injective_left (b : Byte) : Function.Injective (crcStep · b) := fun _ _ h =>
  (BitVec.xor_left_inj _).mp (crcRounds_injective 8 h)

theorem crcStep_injective_right (c : Half) : Function.Injective (crcStep c) := by
  intro a b h
  have hbytes : a.setWidth 16 <<< 8 = b.setWidth 16 <<< 8 := (BitVec.xor_right_inj _).mp (crcRounds_injective 8 h)
  refine BitVec.eq_of_getLsbD_eq fun k hk => ?_
  have hbit := congrArg (BitVec.getLsbD · (8 + k)) hbytes
  simpa [hk, show 8 + k < 16 by omega, show k < 16 by omega] using hbit

/-- The value's own high byte cancels, and the eight rounds move its low byte up. -/
theorem crcStep_high_byte (c : Half) : crcStep c (c.extractLsb' 8 8) = (c.extractLsb' 0 8).setWidth 16 <<< 8 := by
  have hcancel : c ^^^ (c.extractLsb' 8 8).setWidth 16 <<< 8 = (c.extractLsb' 0 8).setWidth 16 := by
    refine BitVec.eq_of_getLsbD_eq fun k hk => ?_
    rcases Nat.lt_or_ge k 8 with hlow | hhigh
    · simp [BitVec.getLsbD_extractLsb', hlow, hk]
    · simp [hhigh, hk, show k - 8 < 8 by omega, show 8 + (k - 8) = k by omega]
  rw [crcStep, hcancel]
  refine crcRounds_of_small ?_
  have := (c.extractLsb' 0 8).isLt
  rw [BitVec.toNat_setWidth]
  omega

/-- A byte that equals the value's high byte, its low byte being zero, leaves nothing. -/
theorem crcStep_cancel (b : Byte) : crcStep (b.setWidth 16 <<< 8) b = 0#16 := by
  rw [crcStep, BitVec.xor_self, crcRounds_of_zero]

/-! ## `CRC16` of a sequence (R111, R113) -/

theorem crc16_append (seed : Half) (xs ys : List Byte) : crc16 seed (xs ++ ys) = crc16 (crc16 seed xs) ys :=
  List.foldl_append

theorem crc16_replicate_zero (n : Nat) : crc16 0#16 (List.replicate n 0#8) = 0#16 := by
  have hstep : crcStep 0#16 0#8 = 0#16 := crcStep_cancel 0#8
  induction n with
  | zero => rfl
  | succ n ih => rw [List.replicate_succ, crc16_cons, hstep, ih]

theorem crc16_zipWith_xor (c d : Half) {xs ys : List Byte} (h : xs.length = ys.length) :
    crc16 (c ^^^ d) (List.zipWith (· ^^^ ·) xs ys) = crc16 c xs ^^^ crc16 d ys := by
  induction xs generalizing c d ys with
  | nil =>
    obtain rfl := List.length_eq_zero_iff.mp h.symm
    rfl
  | cons x xs ih =>
    cases ys with
    | nil => cases h
    | cons y ys =>
      rw [List.zipWith_cons_cons, crc16_cons, crc16_cons, crc16_cons, crcStep_xor]
      exact ih _ _ (Nat.succ.inj h)

theorem crc16_injective_seed (bs : List Byte) : Function.Injective (crc16 · bs) := by
  induction bs with
  | nil => exact Function.injective_id
  | cons b bs ih => exact ih.comp (crcStep_injective_left b)

/-! ## The commands (R114 to R116) -/

/-- The byte a command brings to the running value. -/
def crcByte? : Instr → Option Byte
  | .crcbyte b => some b
  | _ => none

theorem ExecOutcome.crc_eq_crc16 {i : Instr} {s t : State} (h : ExecOutcome s i t) (hsrst : i ≠ .srst)
    (hseed : ∀ x, i ≠ .crcseed x) : t.crc = crc16 s.crc (crcByte? i).toList := by
  cases i with
  | crcbyte b => cases h; rfl
  | crcseed x => exact absurd rfl (hseed x)
  | srst => exact absurd rfl hsrst
  | _ => exact h.crc_eq (by simp [Instr.opcode])

/-- A run without `SRST` and `CRCSEED` takes the running value through the bytes of its `CRCBYTE`s. -/
theorem runCommands_crc {is : List Instr} {s t : State} (his : ∀ i ∈ is, i ≠ .srst ∧ ∀ x, i ≠ .crcseed x)
    (h : runCommands is s = .next t) : t.crc = crc16 s.crc (is.filterMap crcByte?) := by
  induction is generalizing s with
  | nil => cases h; rfl
  | cons i is ih =>
    obtain ⟨⟨hsrst, hseed⟩, hrest⟩ := List.forall_mem_cons.mp his
    obtain ⟨u, hu⟩ := exec_completes i s
    rw [runCommands_cons_next hu] at h
    have hbytes : (i :: is).filterMap crcByte? = (crcByte? i).toList ++ is.filterMap crcByte? := by
      cases hi : crcByte? i <;> simp [hi]
    rw [hbytes, crc16_append, ← (exec_outcome hu).crc_eq_crc16 hsrst hseed]
    exact ih hrest h

/-- `RDREG 0x00` answers the running value. -/
theorem exec_rdreg_crc (s : State) : exec (.rdreg 0x00#8) s = .next (s.respondOkay (s.crc.setWidth 32)) := rfl

/-! ## The obligations -/

/-- Settles O13: the sequence is the value after `k` rounds. -/
theorem crcStepIsEightRounds : Obligations.CrcStepIsEightRounds := by
  intro c b
  refine ⟨fun k => (crcRounds k (c ^^^ b.setWidth 16 <<< 8)).toNat, ?start, fun k _ => ?round, rfl⟩
  case start =>
    have := b.isLt
    have hhigh : (b.setWidth 16 <<< 8).toNat = b.toNat * 256 := by
      rw [BitVec.toNat_shiftLeft, BitVec.toNat_setWidth, Nat.shiftLeft_eq]
      omega
    simp only [crcRounds_zero, BitVec.toNat_xor, hhigh]
  case round =>
    simp only [crcRounds_succ_last]
    exact crcRound_toNat _

/-- Settles O14: a fold over an appended list, and zero bytes that keep the value 0. -/
theorem crcChainsAndIgnoresLeadingZeros : Obligations.CrcChainsAndIgnoresLeadingZeros :=
  ⟨crc16_append, fun n x => ⟨by rw [crc16_append, crc16_replicate_zero], crc16_replicate_zero n⟩⟩

/-- Settles O15: each round is linear, so the step is, and so is the fold. -/
theorem crcIsLinear : Obligations.CrcIsLinear :=
  ⟨crcStep_xor, fun _ _ h => crc16_zipWith_xor 0#16 0#16 h⟩

/-- Settles O16: the step is injective in its byte, and the rest of the sequence keeps different values apart. -/
theorem crcDetectsOneByteChange : Obligations.CrcDetectsOneByteChange := by
  intro seed before after x y hxy h
  rw [crc16_append, crc16_append, crc16_cons, crc16_cons] at h
  exact hxy (crcStep_injective_right _ (crc16_injective_seed after h))

/-- Settles O17: the high byte leaves the low byte in the high half, and the low byte cancels it. -/
theorem crcOfSequenceAndItsCrcIsZero : Obligations.CrcOfSequenceAndItsCrcIsZero := by
  intro x
  rw [crc16_append, crc16_cons, crc16_cons, crc16_nil, crcStep_high_byte, crcStep_cancel]

/-- Settles O20: `CRCSEED` loads the seed, and the run that follows completes and takes it through the bytes. -/
theorem commandSequenceComputesCrc16 : Obligations.CommandSequenceComputesCrc16 := by
  intro s seed is his
  obtain ⟨t, -, ht, -, -⟩ := runCommands_completes (.crcseed seed :: is) s
  exact ⟨t, _, ht, runCommands_crc his ht, exec_rdreg_crc t, rfl⟩

/-- Settles O18: the response is the only other write, and it goes to the response port. -/
theorem crcseedLoadsTheSeed : Obligations.CrcseedLoadsTheSeed := fun _ _ => rfl

/-- Settles O19: the step's next state, and each corner case evaluated. -/
theorem crcbyteAdvancesTheCrc : Obligations.CrcbyteAdvancesTheCrc :=
  ⟨fun _ _ => rfl, by decide⟩

end Sys2Proof.Machine
end

section
/-! Unit FRM (spec/41_packet_framer.md): `PBW` (R132), the checks of `PARSE` and what it reads (R131, R133 to R137), how long a
validation lasts (R138), and packets made and changed (R139). -/

namespace Sys2Proof.Machine

/-! ## `PBW` (R132) -/

theorem exec_pbw_of_lt {s : State} {off : Word} (h : off.toNat < s.cfg.pktCapacity) (byte : Byte) :
    exec (.pbw off byte) s =
      .next (((s.storePkt off.toNat byte).setPktResult .notValidated 0#32 0#32).respondOkay 0#32) :=
  congrArg _ (if_neg (Nat.not_le.mpr h))

theorem exec_pbw_of_le {s : State} {off : Word} (h : s.cfg.pktCapacity ≤ off.toNat) (byte : Byte) :
    exec (.pbw off byte) s = .next (s.respond (.fail .badAddress)) :=
  congrArg _ (if_pos h)

/-- The same for an offset that a `PBW` carries as a number: below `PKT_CAPACITY` it fits 32 bits (R9). -/
theorem exec_pbw_ofNat {s : State} (hcap : s.cfg.pktCapacity < 2 ^ 32) {off : Nat} (h : off < s.cfg.pktCapacity)
    (byte : Byte) :
    exec (.pbw (BitVec.ofNat 32 off) byte) s =
      .next (((s.storePkt off byte).setPktResult .notValidated 0#32 0#32).respondOkay 0#32) := by
  have hoff : (BitVec.ofNat 32 off).toNat = off := (BitVec.toNat_ofNat _ _).trans (Nat.mod_eq_of_lt (h.trans hcap))
  rw [exec_pbw_of_lt (hoff.symm ▸ h), hoff]

/-- Settles O23: on each side of the bound `PBW` has one next state, whose reads are those of one stored byte. -/
theorem pbwStoresOneByteAndWithdrawsValidation : Obligations.PbwStoresOneByteAndWithdrawsValidation := by
  intro s off byte
  refine ⟨fun hlt => ⟨_, exec_pbw_of_lt hlt byte, ?same, fun a ha => ?other, fun _ => rfl, fun _ => rfl, rfl, rfl,
    rfl, rfl, rfl, rfl⟩, fun hle => exec_pbw_of_le hle byte⟩
  case same => exact s.read_storePkt_same off.toNat byte
  case other => exact s.read_storePkt_of_ne byte ha

/-! ## How long a validation lasts (R138) -/

/-- Settles O30, by cases on the outcomes of a command: the others leave the result registers, and what `PARSE` reads. -/
theorem validationLastsUntilWriteParseOrReset : Obligations.ValidationLastsUntilWriteParseOrReset := by
  intro i s t h hparse hsrst hpbw
  have hreads := ((exec_outcome h).samePacket hpbw).read
  cases exec_outcome h with
  | pbwStored off byte hlt => exact absurd (hpbw off byte rfl) (Nat.not_le.mpr hlt)
  | parseFailed | parseValid => exact absurd rfl hparse
  | srst => exact absurd rfl hsrst
  | _ => exact ⟨rfl, rfl, rfl, hreads⟩

/-! ## The checks of `PARSE` (R133, R134, R137) -/

theorem exec_parse_of_failure {s : State} {ty : Word} {r : Reason} (h : s.packetFailure ty = some r) :
    exec (.parse ty) s = .next (s.raiseFail r) := by
  simp only [exec, execParse, h]

theorem exec_parse_of_valid {s : State} {ty : Word} (h : s.packetFailure ty = none) :
    exec (.parse ty) s = .next ((s.setPktResult .valid s.pktLength ty).respondOkay s.pktLength) := by
  simp only [exec, execParse, h]

/-- A `PARSE` that leaves `Valid` found no failure: each failure records another status. -/
theorem packetFailure_none_of_valid {s t : State} {ty : Word} (h : exec (.parse ty) s = .next t)
    (hvalid : t.pktStatus = .valid) : s.packetFailure ty = none := by
  cases exec_outcome h with
  | parseValid _ hnone => exact hnone
  | parseFailed _ r hr =>
    obtain ⟨st, hst, heq⟩ := State.raiseFail_of_packetFailure hr
    exact absurd (by rwa [heq] at hvalid) hst

theorem packetFailure_of_responds_fail {s t : State} {ty : Word} {r : Reason} (h : exec (.parse ty) s = .next t)
    (hr : Responds s t (.fail r)) : s.packetFailure ty = some r := by
  cases exec_outcome h with
  | parseValid => exact absurd (Responds.unique rfl hr) (by simp)
  | parseFailed _ r' hr' =>
    have heq := Responds.unique (s.raiseFail_rspPort r') hr
    rw [hr', Response.fail.inj heq]

/-- The four checks in their order, each with what it does when it is the first to fail. -/
theorem exec_parse_eq_ite (s : State) (ty : Word) :
    exec (.parse ty) s = .next
      (if s.pktHeader ≠ magic then s.raiseFail .headerMismatch
      else if s.pktTypeField ≠ ty then s.raiseFail .typeMismatch
      else if s.cfg.pktCapacity - headerSize < s.pktLength.toNat then s.raiseFail .lengthTooLarge
      else if s.payloadCrc.setWidth 32 ≠ s.pktCrcField then s.raiseFail .crcMismatch
      else (s.setPktResult .valid s.pktLength ty).respondOkay s.pktLength) := by
  simp only [exec, execParse, State.packetFailure]
  split_ifs <;> rfl

/-- Settles O24: the fields are the numbers their bytes make, and a failure writes what `raiseFail` writes. -/
theorem parseChecksInOrder : Obligations.ParseChecksInOrder := by
  intro s ty
  simp only [← State.le32_eq_or]
  exact exec_parse_eq_ite s ty

/-! ## The bytes of the `crc` field (R135) -/

/-- A field has a value exactly when its bytes are those of the value, least significant first. -/
theorem State.le32_eq_ofNat_iff_readBytes (s : State) (off : Nat) {n : Nat} (hn : n < 2 ^ 32) :
    s.le32 off = BitVec.ofNat 32 n ↔ s.readBytes .pkt off 4 = leBytes 4 n := by
  rw [s.le32_eq_ofNat_iff off hn]
  constructor
  · rintro rfl
    simpa using (leBytes_leNat (s.readBytes .pkt off 4)).symm
  · intro h
    rw [h, leNat_leBytes, Nat.mod_eq_of_lt (by omega)]

/-- The four bytes of a 16-bit value: its own two, and two of zero. -/
theorem leBytes_half (v : Half) : leBytes 4 v.toNat = [v.extractLsb' 0 8, v.extractLsb' 8 8, 0#8, 0#8] := by
  have hv := v.isLt
  have h2 : v.toNat / 256 / 256 = 0 := by omega
  simp [leBytes, BitVec.extractLsb', Nat.shiftRight_eq_div_pow, h2]

/-- The `crc` field holds a 16-bit value exactly when all four of its bytes do. -/
theorem State.setWidth_eq_pktCrcField_iff (s : State) (v : Half) :
    v.setWidth 32 = s.pktCrcField ↔
      s.read .pkt 12 = v.extractLsb' 0 8 ∧ s.read .pkt 13 = v.extractLsb' 8 8 ∧ s.read .pkt 14 = 0#8 ∧
        s.read .pkt 15 = 0#8 := by
  have hv := v.isLt
  have hwide : v.setWidth 32 = BitVec.ofNat 32 v.toNat := (BitVec.ofNat_toNat 32 v).symm
  rw [eq_comm, State.pktCrcField, hwide, s.le32_eq_ofNat_iff_readBytes 12 (by omega), State.readBytes_four, leBytes_half]
  simp

/-- Settles O25: the last check asks for all four bytes, and it is the one that fails. -/
theorem parseComparesAllFourCrcBytes : Obligations.ParseComparesAllFourCrcBytes := by
  intro s ty
  refine ⟨fun t h hvalid => ?bytes, fun hheader htype hlength _ _ hupper => ?upper⟩
  case bytes =>
    obtain ⟨-, -, -, hcrc⟩ := (State.packetFailure_none_iff ty s).mp (packetFailure_none_of_valid h hvalid)
    exact (s.setWidth_eq_pktCrcField_iff s.payloadCrc).mp hcrc
  case upper =>
    have hcrc : s.payloadCrc.setWidth 32 ≠ s.pktCrcField := fun heq => by
      obtain ⟨-, -, h14, h15⟩ := (s.setWidth_eq_pktCrcField_iff s.payloadCrc).mp heq
      exact hupper.elim (absurd h14) (absurd h15)
    exact ⟨_, exec_parse_of_failure ((State.packetFailure_crc_iff ty s).mpr ⟨hheader, htype, hlength, hcrc⟩), rfl⟩

/-! ## What `PARSE` reads (R131) -/

/-- What the first three checks of `PARSE` look at: the 16 bytes of the header, and the parameters. -/
structure SameHeader (s t : State) : Prop where
  bytes : ∀ a < 16, t.read .pkt a = s.read .pkt a
  cfg : t.cfg = s.cfg

theorem SameHeader.le32 {s t : State} (h : SameHeader s t) {off : Nat} (hoff : off ≤ 12) : t.le32 off = s.le32 off :=
  State.le32_ext fun k hk => h.bytes (off + k) (by omega)

/-- A packet with the same header that fails before the CRC check fails the same way, whatever its payload. -/
theorem SameHeader.packetFailure_of_ne_crc {s t : State} (h : SameHeader s t) {ty : Word} {r : Reason}
    (hr : s.packetFailure ty = some r) (hne : r ≠ .crcMismatch) : t.packetFailure ty = some r := by
  have hheader : t.pktHeader = s.pktHeader := h.le32 (by decide)
  have htype : t.pktTypeField = s.pktTypeField := h.le32 (by decide)
  have hlength : t.pktLength = s.pktLength := h.le32 (by decide)
  rcases State.packetFailure_some hr with rfl | rfl | rfl | rfl
  · rwa [State.packetFailure_header_iff, hheader, ← State.packetFailure_header_iff ty]
  · rwa [State.packetFailure_type_iff, hheader, htype, ← State.packetFailure_type_iff]
  · rwa [State.packetFailure_length_iff, hheader, htype, hlength, h.cfg, ← State.packetFailure_length_iff]
  · exact absurd rfl hne

/-- With the same payload too, all four checks come out the same. -/
theorem SameHeader.packetFailure_of_payload {s t : State} (h : SameHeader s t) (ty : Word)
    (hpayload : ∀ k < s.pktLength.toNat, t.read .pkt (16 + k) = s.read .pkt (16 + k)) :
    t.packetFailure ty = s.packetFailure ty := by
  have hlength : t.pktLength = s.pktLength := h.le32 (by decide)
  have hcrc : t.payloadCrc = s.payloadCrc := by
    rw [State.payloadCrc, State.payloadCrc, hlength, headerSize, State.readBytes_ext hpayload]
  exact State.packetFailure_congr ty (h.le32 (by decide)) (h.le32 (by decide)) hlength (h.le32 (by decide)) hcrc h.cfg

/-- The state with other contents of PKT: what the two runs of the non-interference statement differ in. -/
def State.withPkt (m : Memory) (s : State) : State := { s with pkt := m }

theorem State.raiseFail_withPkt (m : Memory) (s : State) (r : Reason) :
    (s.withPkt m).raiseFail r = (s.raiseFail r).withPkt m := by
  cases r <;> rfl

/-- Where the checks come out the same for other contents of PKT, `PARSE` does the same. -/
theorem exec_parse_withPkt {s t : State} {ty : Word} {m : Memory} (h : exec (.parse ty) s = .next t)
    (hfailure : (s.withPkt m).packetFailure ty = s.packetFailure ty) (hlength : (s.withPkt m).pktLength = s.pktLength) :
    exec (.parse ty) (s.withPkt m) = .next (t.withPkt m) := by
  cases exec_outcome h with
  | parseFailed _ r hr => rw [exec_parse_of_failure (hfailure.trans hr), State.raiseFail_withPkt]
  | parseValid _ hr =>
    rw [exec_parse_of_valid (hfailure.trans hr), hlength]
    rfl

/-- Settles O26: an early failure is decided by the header, and the other outcomes by the header and the payload. -/
theorem parseReadsOnlyThePacket : Obligations.ParseReadsOnlyThePacket := by
  intro s t ty m h hbytes hrest
  have hsame : SameHeader s (s.withPkt m) := ⟨hbytes, rfl⟩
  have early (r : Reason) (hr : Responds s t (.fail r)) (hne : r ≠ .crcMismatch) :
      (s.withPkt m).packetFailure ty = s.packetFailure ty := by
    have hs := packetFailure_of_responds_fail h hr
    rw [hs, hsame.packetFailure_of_ne_crc hs hne]
  refine exec_parse_withPkt h ?_ (hsame.le32 (by decide))
  rcases hrest with hr | hr | hr | hpayload
  · exact early _ hr (by decide)
  · exact early _ hr (by decide)
  · exact early _ hr (by decide)
  · exact hsame.packetFailure_of_payload ty hpayload

/-! ## A packet made by `MKPKT` (R98, R139) -/

/-- The `PBW`s of bytes that fit PKT are all accepted and store the bytes in order. -/
theorem runCommands_loadFrom {bytes : List Byte} {off : Nat} {s : State} (hcap : s.cfg.pktCapacity < 2 ^ 32)
    (hfit : off + bytes.length ≤ s.cfg.pktCapacity) :
    ∃ t, runCommands (loadFrom off bytes) s = .next t ∧ t.pkt = s.pkt.writeBytes off bytes ∧ t.cfg = s.cfg := by
  induction bytes generalizing off s with
  | nil => exact ⟨s, rfl, rfl, rfl⟩
  | cons b bs ih =>
    rw [List.length_cons] at hfit
    rw [loadFrom, runCommands_cons_next (exec_pbw_ofNat hcap (by omega) b)]
    exact ih hcap (by rw [State.respondOkay_cfg, State.setPktResult_cfg, State.storePkt_cfg]; omega)

theorem State.readBytes_of_writeBytes {t : State} {m : Memory} {off : Nat} {bytes : List Byte}
    (h : t.pkt = m.writeBytes off bytes) : t.readBytes .pkt off bytes.length = bytes :=
  List.ext_getElem (by simp) fun k _ hk => by
    simp [State.read, State.memory, h, Memory.lookup_writeBytes_in _ _ _ _ hk]

/-- A sequence stands at an address in two parts, the second where the first ends. -/
theorem State.readBytes_append_iff (s : State) (sp : Space) (a : Nat) (xs ys : List Byte) :
    s.readBytes sp a (xs ++ ys).length = xs ++ ys ↔
      s.readBytes sp a xs.length = xs ∧ s.readBytes sp (a + xs.length) ys.length = ys := by
  rw [List.length_append, State.readBytes_add]
  exact ⟨fun h => List.append_inj h (by simp), fun ⟨hx, hy⟩ => by rw [hx, hy]⟩

/-- The parts of a packet that stands in PKT (R58). -/
theorem State.packet_parts {s : State} {ty : Word} {payload : List Byte}
    (h : s.readBytes .pkt 0 (packetBytes ty payload).length = packetBytes ty payload) :
    s.pktHeader = magic ∧ s.pktTypeField = ty ∧ s.pktLength = BitVec.ofNat 32 payload.length ∧
      s.pktCrcField = (crc16 pktSeed payload).setWidth 32 ∧ s.readBytes .pkt 16 payload.length = payload := by
  simp only [packetBytes, State.readBytes_append_iff] at h
  simp only [List.length_append, leBytes_length] at h
  obtain ⟨⟨⟨⟨hheader, htype⟩, hlength⟩, hcrc⟩, hpayload⟩ := h
  have field {off n : Nat} (hbytes : s.readBytes .pkt off 4 = leBytes 4 n) : s.le32 off = BitVec.ofNat 32 n := by
    rw [State.le32, hbytes, leNat_leBytes]
    exact BitVec.eq_of_toNat_eq (by simp)
  exact ⟨field hheader, (field htype).trans (by simp), field hlength,
    (field hcrc).trans (BitVec.ofNat_toNat 32 _), hpayload⟩

/-- Settles O28: the loaded bytes read back, and they are the fields and the payload that the four checks ask for. -/
theorem madePacketValidates : Obligations.MadePacketValidates := by
  intro s ty payload hcfg hfit
  obtain ⟨⟨hmin, hmax⟩, -⟩ := hcfg
  have hsize : (packetBytes ty payload).length = 16 + payload.length := by
    simp only [packetBytes, List.length_append, leBytes_length]
  obtain ⟨t, hrun, hpkt, htcfg⟩ :=
    runCommands_loadFrom (bytes := packetBytes ty payload) (off := 0) (s := s) hmax (by omega)
  obtain ⟨hheader, htype, hlength, hcrc, hpayload⟩ := State.packet_parts (State.readBytes_of_writeBytes hpkt)
  have hlen : t.pktLength.toNat = payload.length := by
    rw [hlength, BitVec.toNat_ofNat, Nat.mod_eq_of_lt (by omega)]
  have hpayloadCrc : t.payloadCrc = crc16 pktSeed payload := by rw [State.payloadCrc, headerSize, hlen, hpayload]
  have hvalid : t.packetFailure ty = none := (State.packetFailure_none_iff ty t).mpr
    ⟨hheader, htype, by rw [hlen, htcfg]; exact hfit, by rw [hpayloadCrc, hcrc]⟩
  exact ⟨t, _, hrun, exec_parse_of_valid hvalid, hlength ▸ rfl, rfl, hlen, rfl, hpayload⟩

/-! ## A changed payload byte (R113, R139) -/

theorem State.readBytes_storePkt {s : State} {a n k : Nat} (b : Byte) :
    (s.storePkt (a + k) b).readBytes .pkt a n = (s.readBytes .pkt a n).set k b := by
  refine List.ext_getElem (by simp) fun j _ _ => ?_
  rw [State.readBytes_getElem, List.getElem_set]
  split
  case isTrue hj => rw [← hj, State.read_storePkt_same]
  case isFalse hj => rw [State.read_storePkt_of_ne _ _ (by omega), State.readBytes_getElem]

/-- `CRC16` tells a sequence from the one with another byte in one place (R113 (d)). -/
theorem crc16_set_ne (seed : Half) {bs : List Byte} {k : Nat} (hk : k < bs.length) {x : Byte} (hx : x ≠ bs[k]) :
    crc16 seed (bs.set k x) ≠ crc16 seed bs := by
  have hsplit : bs.take k ++ bs[k] :: bs.drop (k + 1) = bs := by simp
  rw [List.set_eq_take_append_cons_drop, if_pos hk]
  conv_rhs => rw [← hsplit]
  exact crcDetectsOneByteChange seed _ _ _ _ hx

theorem setWidth_half_injective : Function.Injective (BitVec.setWidth 32 : Half → Word) := fun v w h => by
  simpa using congrArg (BitVec.setWidth 16) h

/-- A valid packet with another byte in its payload passes the first three checks and fails the last. -/
theorem State.packetFailure_storePkt_payload {s : State} {ty : Word} (hvalid : s.packetFailure ty = none) {k : Nat}
    (hk : k < s.pktLength.toNat) {x : Byte} (hx : x ≠ s.read .pkt (16 + k)) :
    (s.storePkt (16 + k) x).packetFailure ty = some .crcMismatch := by
  obtain ⟨hheader, htype, hlength, hcrc⟩ := (State.packetFailure_none_iff ty s).mp hvalid
  have hsame : SameHeader s (s.storePkt (16 + k) x) := ⟨fun a ha => s.read_storePkt_of_ne x (by omega), rfl⟩
  have hlen : (s.storePkt (16 + k) x).pktLength = s.pktLength := hsame.le32 (by decide)
  have hchanged : (s.storePkt (16 + k) x).payloadCrc ≠ s.payloadCrc := by
    rw [State.payloadCrc, hlen, headerSize, State.readBytes_storePkt]
    exact crc16_set_ne _ (by simpa using hk) (by simpa using hx)
  refine (State.packetFailure_crc_iff ty _).mpr ⟨(hsame.le32 (by decide)).trans hheader,
    (hsame.le32 (by decide)).trans htype, hlen ▸ hlength, ?_⟩
  have hfield : (s.storePkt (16 + k) x).pktCrcField = s.pktCrcField := hsame.le32 (by decide)
  rw [hfield, ← hcrc]
  exact setWidth_half_injective.ne hchanged

/-- After a `PARSE` that validates, the packet is still one that validates, with the length recorded. -/
theorem packetFailure_after_valid {s t : State} {ty : Word} (h : exec (.parse ty) s = .next t)
    (hvalid : t.pktStatus = .valid) : t.packetFailure ty = none ∧ t.pktLen = t.pktLength := by
  have hnone := packetFailure_none_of_valid h hvalid
  rw [exec_parse_of_valid hnone] at h
  cases h
  exact ⟨(SamePacket.packetFailure ⟨rfl, rfl, rfl⟩ ty).trans hnone, rfl⟩

/-- Settles O29: the write falls in the payload, so that the CRC check is the first to fail. -/
theorem payloadByteChangeIsCaught : Obligations.PayloadByteChangeIsCaught := by
  intro s t ty k x hcfg hparse hvalid hk hx
  obtain ⟨⟨-, hmax⟩, -⟩ := hcfg
  obtain ⟨hnone, hlen⟩ := packetFailure_after_valid hparse hvalid
  rw [hlen] at hk
  obtain ⟨-, -, hfits, -⟩ := (State.packetFailure_none_iff ty t).mp hnone
  rw [headerSize] at hfits
  obtain ⟨hcfg, -⟩ := (exec_outcome hparse).sameSurroundings
  refine ⟨_, _, exec_pbw_ofNat (hcfg ▸ hmax) (by omega) x, rfl, exec_parse_of_failure (r := .crcMismatch) ?_,
    rfl, rfl, rfl, rfl⟩
  have hwritten : SamePacket (t.storePkt (16 + k) x)
      (((t.storePkt (16 + k) x).setPktResult .notValidated 0#32 0#32).respondOkay 0#32) := ⟨rfl, rfl, rfl⟩
  exact (hwritten.packetFailure ty).trans (State.packetFailure_storePkt_payload hnone hk hx)

end Sys2Proof.Machine
end

section
/-! Unit FBT, one command at a time (spec/42_fastboot_transfer.md): the announces (R156, R162), the acceptance of chunk and
complete commands (R153), what each of them does (R157 to R166), and the phases (R152, R155). -/

namespace Sys2Proof.Machine

/-! ## The announces (R156, R162) -/

theorem State.announceChecked_of_zero (d : Dir) (limit : Nat) {size : Word} (h : size = 0#32) (s : State) :
    s.announceChecked d limit size = s.respond (.fail .invalidSize) :=
  if_pos h

theorem State.announceChecked_of_gt (d : Dir) {limit : Nat} {size : Word} (h0 : size ≠ 0#32) (h : size.toNat > limit)
    (s : State) : s.announceChecked d limit size = s.respond (.fail .sizeTooLarge) :=
  (if_neg h0).trans (if_pos h)

/-- Settles O31: the three branches of an announce, for a download. -/
theorem dlannAnnouncesDownload : Obligations.DlannAnnouncesDownload := fun s _ =>
  ⟨fun h => congrArg _ (s.announceChecked_of_zero .download _ h),
    fun h0 h => congrArg _ (s.announceChecked_of_gt .download h0 h), exec_dlann_of_fits⟩

/-- Settles O32: the three branches of an announce, for an upload. -/
theorem ulannAnnouncesUpload : Obligations.UlannAnnouncesUpload := fun s _ =>
  ⟨fun h => congrArg _ (s.announceChecked_of_zero .upload _ h),
    fun h0 h => congrArg _ (s.announceChecked_of_gt .upload h0 h), exec_ulann_of_fits⟩

/-! ## Which command is accepted (R153) -/

theorem State.accepts_eq_false_iff (s : State) (d : Dir) :
    s.accepts d = false ↔ ¬ ((s.fbPhase = .announced ∨ s.fbPhase = .transferring) ∧ s.fbDir = d) := by
  rw [← s.accepts_iff, Bool.not_eq_true]

/-- The direction of a live transfer that a chunk or complete command needs; the other commands need none. -/
def transferDir? : Instr → Option Dir
  | .dlchk _ => some .download
  | .dlend => some .download
  | .ulchk _ => some .upload
  | .ulend => some .upload
  | _ => none

/-- Outside a live transfer of its direction a chunk or complete command answers `BadState` and does nothing else. -/
theorem exec_of_not_accepted {i : Instr} {s : State} {d : Dir} (hd : transferDir? i = some d) (ha : s.accepts d = false) :
    exec i s = .next (s.respond (.fail .badState)) := by
  have hrefused : (!s.accepts d) = true := by rw [ha]; rfl
  cases i with
  | dlchk | dlend | ulchk | ulend => cases hd; exact congrArg _ (if_pos hrefused)
  | _ => cases hd

/-- `BadState` is answered there and nowhere else. -/
theorem not_accepted_of_badState {i : Instr} {s t : State} (h : exec i s = .next t) (hr : Responds s t (.fail .badState)) :
    ∃ d, transferDir? i = some d ∧ s.accepts d = false := by
  cases exec_outcome h with
  | dlchkBadState _ ha | dlendBadState ha | ulchkBadState _ ha | ulendBadState ha => exact ⟨_, rfl, ha⟩
  | parseFailed ty r hfailure =>
    cases Responds.unique (s.raiseFail_rspPort r) hr
    simpa using State.packetFailure_some hfailure
  | _ => cases Responds.unique rfl hr

theorem responds_badState_iff {i : Instr} {s t : State} {d : Dir} (h : exec i s = .next t)
    (hd : transferDir? i = some d) : Responds s t (.fail .badState) ↔ s.accepts d = false := by
  constructor
  · intro hr
    obtain ⟨d', hd', ha⟩ := not_accepted_of_badState h hr
    cases hd.symm.trans hd'
    exact ha
  · intro ha
    cases h.symm.trans (exec_of_not_accepted hd ha)
    rfl

/-- Settles O38: `BadState` is the answer where the direction a command needs is not live, and there alone. -/
theorem acceptanceTable : Obligations.AcceptanceTable := by
  intro i s
  obtain ⟨t, h⟩ := exec_completes i s
  refine ⟨t, h, ?table, fun hr => ?unchanged⟩
  case table =>
    cases i with
    | dlchk | dlend | ulchk | ulend => exact (responds_badState_iff h rfl).trans (s.accepts_eq_false_iff _)
    | _ =>
      refine iff_false_intro fun hr => ?_
      obtain ⟨d, hd, -⟩ := not_accepted_of_badState h hr
      cases hd
  case unchanged =>
    obtain ⟨d, hd, ha⟩ := not_accepted_of_badState h hr
    cases h.symm.trans (exec_of_not_accepted hd ha)
    rfl

/-! ## The chunks (R157, R158, R161, R163, R165) -/

/-- A refused chunk of either direction aborts the transfer and does nothing else. -/
theorem exec_dlchk_of_invalid {s : State} {data : List Byte} (ha : s.accepts .download = true)
    (hc : chunkInvalid s.bytesReceived data.length s.bytesExpected = true) :
    exec (.dlchk data) s = .next ((s.setPhase .aborted).respond (.fail .invalidChunk)) := by
  simp [exec, execDlchk, ha, hc, State.raiseFail_invalidChunk]

theorem exec_ulchk_of_invalid {s : State} {len : Word} (ha : s.accepts .upload = true)
    (hc : chunkInvalid s.bytesSent len.toNat s.bytesExpected = true) :
    exec (.ulchk len) s = .next ((s.setPhase .aborted).respond (.fail .invalidChunk)) := by
  simp [exec, execUlchk, ha, hc, State.raiseFail_invalidChunk]

theorem chunkInvalid_eq_false_iff (count : Word) (len : Nat) (expected : Word) :
    chunkInvalid count len expected = false ↔ ¬ (len = 0 ∨ expected.toNat < count.toNat + len) := by
  rw [← chunkInvalid_iff, Bool.not_eq_true]

theorem progressFlag_eq_decide (interval before after : Nat) :
    progressFlag interval before after = decide (before / interval ≠ after / interval) := by
  rw [Bool.eq_iff_iff, progressFlag_iff, decide_eq_true_eq]

/-- Settles O33: the three branches of `DLCHK`, the last with the laws of a stored chunk. -/
theorem dlchkStoresOrAborts : Obligations.DlchkStoresOrAborts := by
  intro s data
  refine ⟨fun hdead => exec_of_not_accepted rfl ((s.accepts_eq_false_iff _).mpr hdead), fun hlive => ?_⟩
  have ha := (s.accepts_iff .download).mpr hlive
  refine ⟨fun hbad => exec_dlchk_of_invalid ha ((chunkInvalid_iff _ _ _).mpr hbad), fun hfits => ?_⟩
  have hc := (chunkInvalid_eq_false_iff _ _ _).mpr hfits
  obtain ⟨hcount, -, -⟩ := toNat_chunk_counter hc
  refine ⟨_, _, exec_dlchk_of_accepted ha hc, hcount, fun k hk => State.read_storeStg_in s _ k data hk,
    fun a hout => State.read_storeStg_out s _ a data hout, fun _ => rfl, fun _ => rfl, rfl, ?_, rfl, rfl, rfl, rfl⟩
  rw [hcount, ← progressFlag_eq_decide]
  rfl

/-- Settles O34: the three branches of `ULCHK`. -/
theorem ulchkSendsOrAborts : Obligations.UlchkSendsOrAborts := by
  intro s len
  have hzero : len = 0#32 ↔ len.toNat = 0 := BitVec.toNat_eq
  rw [hzero]
  refine ⟨fun hdead => exec_of_not_accepted rfl ((s.accepts_eq_false_iff _).mpr hdead), fun hlive => ?_⟩
  have ha := (s.accepts_iff .upload).mpr hlive
  refine ⟨fun hbad => exec_ulchk_of_invalid ha ((chunkInvalid_iff _ _ _).mpr hbad), fun hfits => ?_⟩
  have hc := (chunkInvalid_eq_false_iff _ _ _).mpr hfits
  obtain ⟨hcount, -, -⟩ := toNat_chunk_counter hc
  refine ⟨_, hcount, ?_⟩
  rw [exec_ulchk_of_accepted ha hc, hcount, ← progressFlag_eq_decide]
  rfl

/-! ## The complete commands (R159, R166) -/

theorem exec_ulend_of_accepted {s : State} (ha : s.accepts .upload = true) :
    exec .ulend s = .next (s.finishTransfer.respondOkay s.bytesSent) := by
  simp [exec, execUlend, ha]

/-- Settles O35: the two branches of `DLEND`. -/
theorem dlendPublishesImageSize : Obligations.DlendPublishesImageSize := fun s =>
  ⟨fun hdead => exec_of_not_accepted rfl ((s.accepts_eq_false_iff _).mpr hdead),
    fun hlive => exec_dlend_of_accepted ((s.accepts_iff _).mpr hlive)⟩

/-- Settles O36: the two branches of `ULEND`. -/
theorem ulendCompletesUpload : Obligations.UlendCompletesUpload := fun s =>
  ⟨fun hdead => exec_of_not_accepted rfl ((s.accepts_eq_false_iff _).mpr hdead),
    fun hlive => exec_ulend_of_accepted ((s.accepts_iff _).mpr hlive)⟩

/-! ## The phases (R152, R155) -/

/-- Settles O37, by cases on the outcomes of a command and of a step: the outcomes that write the phase are rows of the
table, and an accepted or aborted chunk passed the acceptance check. -/
theorem phaseTransitionTable : Obligations.PhaseTransitionTable := by
  refine ⟨fun i s t h => ?command, fun s t hpin h => ?reset, fun s t why rest hpin hd h => ?illegal⟩
  case command =>
    cases exec_outcome h with
    | dlchkInvalid _ ha | dlchkAccepted _ ha | dlendAccepted ha | ulchkInvalid _ ha | ulchkAccepted _ ha
    | ulendAccepted ha =>
      obtain ⟨hlive, hdir⟩ := (s.accepts_iff _).mp ha
      exact ⟨_, rfl, hlive, hdir, rfl⟩
    | parseFailed ty r hfailure =>
      exact ⟨.fail r, s.raiseFail_rspPort r, State.raiseFail_fbPhase_of_packetFailure hfailure⟩
    | _ => exact ⟨_, rfl, rfl⟩
  case reset =>
    obtain ⟨_, _, hno, -⟩ | ⟨_, _, hno, -⟩ | ⟨-, rfl⟩ := step_next_cases h
    · exact absurd (hno.symm.trans hpin) (by decide)
    · exact absurd (hno.symm.trans hpin) (by decide)
    · rfl
  case illegal =>
    cases (step_of_illegal hpin hd).symm.trans h
    rfl

theorem State.not_accepts_of_aborted {s : State} (h : s.fbPhase = .aborted) (d : Dir) : s.accepts d = false :=
  (s.accepts_eq_false_iff d).mpr (by simp [h])

/-- From `Aborted` every command but `SRST` and an accepted announce leaves the registers of the unit, and STG. -/
theorem ExecOutcome.transfer_eq_of_aborted {i : Instr} {s t : State} (h : ExecOutcome s i t) (hs : s.fbPhase = .aborted)
    (hsrst : i ≠ .srst) (hannounce : ∀ size, ¬ Responds s t (.size size)) :
    t.transferView = s.transferView ∧ t.stg = s.stg := by
  have hdead := State.not_accepts_of_aborted hs
  cases h with
  | dlannAccepted size | ulannAccepted size => exact absurd rfl (hannounce size)
  | dlchkInvalid _ ha | dlchkAccepted _ ha | dlendAccepted ha | ulchkInvalid _ ha | ulchkAccepted _ ha
  | ulendAccepted ha => exact absurd (ha.symm.trans (hdead _)) (by decide)
  | srst => exact absurd rfl hsrst
  | parseFailed ty r hfailure =>
    obtain ⟨st, -, heq⟩ := State.raiseFail_of_packetFailure hfailure
    rw [heq]
    exact ⟨rfl, rfl⟩
  | _ => exact ⟨rfl, rfl⟩

/-- Settles O39: the unit's registers and STG stay, and no direction's commands are accepted. -/
theorem abortedTransferStaysDead : Obligations.AbortedTransferStaysDead := by
  intro i s t hs h hsrst hannounce
  have outcome := exec_outcome h
  obtain ⟨-, -, -, hepoch⟩ := outcome.sameSurroundings
  obtain ⟨hview, hstg⟩ := outcome.transfer_eq_of_aborted hs hsrst hannounce
  simp only [State.transferView, Prod.mk.injEq] at hview
  obtain ⟨hphase, hdir, hexpected, hreceived, hsent, himage, -⟩ := hview
  refine ⟨hphase.trans hs, hdir, hexpected, hreceived, hsent, himage, State.read_congr (sp := .stg) hstg hepoch,
    fun hi => ?_⟩
  cases i with
  | dlchk | dlend | ulchk | ulend => exact (responds_badState_iff h rfl).mpr (State.not_accepts_of_aborted hs _)
  | _ => simp [Instr.opcode] at hi

end Sys2Proof.Machine
end

section
/-! The observation and reset commands (spec/43_system_ops.md): `RDREG` (R180), `MRD` (R181) and `SRST` (R182). -/

namespace Sys2Proof.Machine

theorem State.raiseFail_badAddress (s : State) : s.raiseFail .badAddress = s.respond (.fail .badAddress) :=
  s.raiseFail_pure (by simp)

/-! ## `RDREG` (R34, R180) -/

theorem exec_rdreg_of_readReg {s : State} {r : RegName} {v : Word} (h : s.readReg r = v) :
    exec (.rdreg r.id) s = .next (s.respondOkay v) := by
  simp only [exec, execRdreg, RegName.ofId?_id, h]

theorem exec_rdreg_of_no_register {id : Byte} (h : RegName.ofId? id = none) (s : State) :
    exec (.rdreg id) s = .next (s.respond (.fail .badAddress)) := by
  simp only [exec, execRdreg, h, State.raiseFail_badAddress]

/-- The ids of R34: `0x00` to `0x09` and `0x10` to `0x13`. -/
theorem RegName.id_toNat_range (r : RegName) : r.id.toNat < 0x0A ∨ 0x0F < r.id.toNat ∧ r.id.toNat < 0x14 := by
  cases r <;> decide

/-- Settles O43: each listed id is the id of a register; the three coded registers answer their codes, and an id outside
the two ranges of R34 names no register. -/
theorem rdregReadsTheNamedRegister : Obligations.RdregReadsTheNamedRegister := by
  intro s
  refine ⟨exec_rdreg_of_readReg (r := .crc) rfl, exec_rdreg_of_readReg (r := .pktStatus) ?status,
    exec_rdreg_of_readReg (r := .pktLen) rfl, exec_rdreg_of_readReg (r := .pktType) rfl,
    exec_rdreg_of_readReg (r := .fbPhase) ?phase, exec_rdreg_of_readReg (r := .fbDir) ?direction,
    exec_rdreg_of_readReg (r := .bytesExpected) rfl, exec_rdreg_of_readReg (r := .bytesReceived) rfl,
    exec_rdreg_of_readReg (r := .bytesSent) rfl, exec_rdreg_of_readReg (r := .imageSize) rfl,
    exec_rdreg_of_readReg (r := .pktCapacity) rfl, exec_rdreg_of_readReg (r := .fbBufSize) rfl,
    exec_rdreg_of_readReg (r := .ulSrcSize) rfl, exec_rdreg_of_readReg (r := .progressInterval) rfl,
    fun id hid => exec_rdreg_of_no_register (RegName.ofId?_none.mpr fun r hr => ?unnamed) s⟩
  case status =>
    simp only [State.readReg]
    cases s.pktStatus <;> rfl
  case phase =>
    simp only [State.readReg]
    cases s.fbPhase <;> rfl
  case direction =>
    simp only [State.readReg]
    cases s.fbDir <;> rfl
  case unnamed =>
    have hrange := r.id_toNat_range
    rw [hr] at hrange
    omega

/-! ## `MRD` (R37, R181) -/

theorem Space.ofId?_eq_none {space : Byte} (h : 2 < space.toNat) : Space.ofId? space = none := by
  have hne (n : Byte) (hn : n.toNat ≤ 2) : space ≠ n := by
    rintro rfl
    omega
  simp only [Space.ofId?, hne 0#8 (by decide), hne 1#8 (by decide), hne 2#8 (by decide), if_false]

theorem exec_mrd_of_no_space {space : Byte} (h : Space.ofId? space = none) (off : Word) (s : State) :
    exec (.mrd space off) s = .next (s.respond (.fail .badAddress)) := by
  simp only [exec, execMrd, h, State.raiseFail_badAddress]

theorem exec_mrd_of_le {s : State} {space : Byte} {sp : Space} {off : Word} (h : Space.ofId? space = some sp)
    (hoff : s.spaceSize sp ≤ off.toNat) : exec (.mrd space off) s = .next (s.respond (.fail .badAddress)) := by
  simp only [exec, execMrd, h, if_pos hoff, State.raiseFail_badAddress]

theorem exec_mrd_of_lt {s : State} {space : Byte} {sp : Space} {off : Word} (h : Space.ofId? space = some sp)
    (hoff : off.toNat < s.spaceSize sp) :
    exec (.mrd space off) s = .next (s.respondOkay ((s.read sp off.toNat).setWidth 32)) := by
  simp only [exec, execMrd, h, if_neg (Nat.not_le.mpr hoff)]

/-- Settles O44: the three rows of R37 give each space id its memory and size; on each side of the size `MRD` has one next
state. -/
theorem mrdReadsOneByte : Obligations.MrdReadsOneByte := by
  intro s space off
  refine ⟨fun hspace => exec_mrd_of_no_space (Space.ofId?_eq_none hspace) off s, fun sp size hrow => ?_⟩
  obtain ⟨hid, hsize⟩ : Space.ofId? space = some sp ∧ s.spaceSize sp = size := by
    obtain ⟨rfl, rfl, rfl⟩ | ⟨rfl, rfl, rfl⟩ | ⟨rfl, rfl, rfl⟩ := hrow <;> exact ⟨rfl, rfl⟩
  subst hsize
  exact ⟨exec_mrd_of_le hid, exec_mrd_of_lt hid⟩

/-! ## `SRST` (R182) -/

/-- Settles O45: the meaning of `SRST` is `resetRegisters`, which writes the ten registers alone, and its response. -/
theorem srstClearsRegistersKeepsMemory : Obligations.SrstClearsRegistersKeepsMemory := fun _ => rfl

end Sys2Proof.Machine
end

section
/-! The failures (spec/60_exceptions.md): what a failed command and an illegal word write (R211, R222), and which command can
raise which reason (R212). -/

namespace Sys2Proof.Machine

/-! ## What a failure writes (R211, R222) -/

/-- A command that answers `FAIL(r)` did what raising `r` does, and nothing else (R221). -/
theorem ExecOutcome.eq_raiseFail {i : Instr} {s t : State} {r : Reason} (h : ExecOutcome s i t)
    (hr : Responds s t (.fail r)) : t = s.raiseFail r := by
  cases h with
  | parseFailed ty r' h => cases Responds.unique (s.raiseFail_rspPort r') hr; rfl
  | _ => cases Responds.unique rfl hr <;> rfl

/-- A step that answers `FAIL(r)` took a command or an illegal word from the port and raised `r`. -/
theorem step_eq_raiseFail {s t : State} {r : Reason} (hpin : s.resetPin = false) (h : step s = .next t)
    (hr : Responds s t (.fail r)) : ∃ rest, t = (s.takeCommand rest).raiseFail r := by
  obtain ⟨i, rest, -, -, hexec⟩ | ⟨_, rest, -, -, rfl⟩ | ⟨hpin', -⟩ := step_next_cases h
  · exact ⟨rest, (exec_outcome hexec).eq_raiseFail hr⟩
  · cases Responds.unique rfl hr
    exact ⟨rest, rfl⟩
  · exact absurd (hpin.symm.trans hpin') (by decide)

theorem State.raiseFail_sameSurroundings (s : State) (r : Reason) : SameSurroundings s (s.raiseFail r) :=
  ⟨s.raiseFail_cfg r, s.raiseFail_cmdPort r, s.raiseFail_resetPin r, s.raiseFail_epoch r⟩

/-- Settles O53: a failed command or step is `raiseFail`, whose writes are those of the reason. -/
theorem failuresArePrecise : Obligations.FailuresArePrecise := by
  refine ⟨fun r => by cases r <;> rfl, fun i s t r h hr => ?command, fun s t r hpin h hr => ?step⟩
  case command =>
    rw [(exec_outcome h).eq_raiseFail hr]
    exact ⟨s.read_raiseFail r, s.raiseFail_sameSurroundings r, by cases r <;> rfl⟩
  case step =>
    obtain ⟨rest, rfl⟩ := step_eq_raiseFail hpin h hr
    exact ⟨(s.takeCommand rest).read_raiseFail r, State.raiseFail_cfg _ r, State.raiseFail_resetPin _ r,
      by cases r <;> rfl⟩

/-! ## States in which a command fails (R212) -/

/-- The smallest block the parameters allow, idle, its PKT holding what `m` lists. -/
def State.smallIdle (m : Memory) : State := { State.reset with cfg := ⟨16, 1, 1, 1⟩, pkt := m }

theorem State.smallIdle_inv {m : Memory} (hwf : m.wf) (hbound : ∀ c ∈ m, c.1 < 16) : (State.smallIdle m).Inv where
  params := show (Config.Params.mk 16 1 1 1).Valid by decide
  memory
    | .pkt => ⟨hwf, hbound⟩
    | .stg | .src => ⟨List.Pairwise.nil, fun _ hc => absurd hc List.not_mem_nil⟩
  framer := .of_not_valid (by simp [State.smallIdle, State.reset]) rfl rfl
  transfer := .of_cleared rfl

theorem State.smallIdle_nil_inv : (State.smallIdle []).Inv :=
  State.smallIdle_inv List.Pairwise.nil fun _ hc => absurd hc List.not_mem_nil

/-- The same block with a transfer of one byte announced. -/
def State.smallAnnounced (d : Dir) : State := (State.smallIdle []).announce d 1#32

theorem State.smallAnnounced_inv (d : Dir) : (State.smallAnnounced d).Inv where
  params := State.smallIdle_nil_inv.params
  memory := State.smallIdle_nil_inv.memory.congr rfl rfl rfl rfl
  framer := State.smallIdle_nil_inv.framer.congr rfl rfl rfl rfl rfl rfl
  transfer := State.smallIdle_nil_inv.transfer.announce (by decide) (fun _ => le_rfl) (fun _ => le_rfl)

/-- Bytes written from address 0 into an empty memory list no address past their end. -/
theorem Memory.lt_length_of_mem_writeBytes_nil {bytes : List Byte} {c : Host.Cell}
    (hc : c ∈ Memory.writeBytes [] 0 bytes) : c.1 < bytes.length := by
  rcases Memory.mem_writeBytes hc with ⟨-, hlt⟩ | hc
  · rwa [Nat.zero_add] at hlt
  · cases hc

/-- The 16 bytes of a packet header with these four fields (R58). -/
def headerBytes (header type length crc : Word) : List Byte :=
  leBytes 4 header.toNat ++ leBytes 4 type.toNat ++ leBytes 4 length.toNat ++ leBytes 4 crc.toNat

theorem headerBytes_length (header type length crc : Word) : (headerBytes header type length crc).length = 16 := by
  simp [headerBytes]

/-- The small block with the header of these four fields in PKT. -/
def State.ofHeader (header type length crc : Word) : State :=
  .smallIdle (Memory.writeBytes [] 0 (headerBytes header type length crc))

theorem State.ofHeader_inv (header type length crc : Word) : (State.ofHeader header type length crc).Inv :=
  State.smallIdle_inv (Memory.wf_writeBytes List.Pairwise.nil 0 _) fun _ hc =>
    headerBytes_length header type length crc ▸ Memory.lt_length_of_mem_writeBytes_nil hc

/-! ## Which command can raise which reason (R212) -/

/-- In some state of the invariant some well-formed command of the row `o` answers `FAIL(r)`. -/
def CanRaise (o : Opcode) (r : Reason) : Prop :=
  ∃ (i : Instr) (s t : State), i.opcode = o ∧ i.WellFormed ∧ s.Inv ∧ exec i s = .next t ∧ Responds s t (.fail r)

theorem canRaise_of_exec {i : Instr} {s : State} {r : Reason} (hwf : i.WellFormed) (hs : s.Inv)
    (h : exec i s = .next (s.raiseFail r)) : CanRaise i.opcode r :=
  ⟨i, s, _, rfl, hwf, hs, h, s.raiseFail_rspPort r⟩

theorem canRaise_parse {header type length crc ty : Word} {r : Reason}
    (h : (State.ofHeader header type length crc).packetFailure ty = some r) : CanRaise .parse r :=
  canRaise_of_exec (i := .parse ty) trivial (State.ofHeader_inv header type length crc) (exec_parse_of_failure h)

/-- Each of the four checks can be the first to fail. -/
theorem parse_canRaise :
    ∀ r ∈ [Reason.headerMismatch, .typeMismatch, .lengthTooLarge, .crcMismatch], CanRaise .parse r := by
  intro r hr
  simp only [List.mem_cons, List.not_mem_nil, or_false] at hr
  rcases hr with rfl | rfl | rfl | rfl
  · exact canRaise_parse (show (State.ofHeader 0#32 0#32 0#32 0#32).packetFailure 0#32 = some .headerMismatch by decide)
  · exact canRaise_parse (show (State.ofHeader magic 0#32 0#32 0#32).packetFailure 1#32 = some .typeMismatch by decide)
  · exact canRaise_parse (show (State.ofHeader magic 0#32 1#32 0#32).packetFailure 0#32 = some .lengthTooLarge by decide)
  · exact canRaise_parse (show (State.ofHeader magic 0#32 0#32 1#32).packetFailure 0#32 = some .crcMismatch by decide)

/-- A chunk or complete command outside a transfer. -/
theorem canRaise_badState {i : Instr} {d : Dir} (hwf : i.WellFormed) (hd : transferDir? i = some d) :
    CanRaise i.opcode .badState :=
  canRaise_of_exec hwf State.smallIdle_nil_inv (exec_of_not_accepted hd (by cases d <;> rfl))

/-- An announce of no byte, and one of two bytes where one fits. -/
theorem dlann_canRaise : ∀ r ∈ [Reason.invalidSize, .sizeTooLarge], CanRaise .dlann r :=
  List.forall_mem_cons.mpr ⟨canRaise_of_exec (i := .dlann 0#32) trivial State.smallIdle_nil_inv rfl,
    List.forall_mem_singleton.mpr (canRaise_of_exec (i := .dlann 2#32) trivial State.smallIdle_nil_inv rfl)⟩

theorem ulann_canRaise : ∀ r ∈ [Reason.invalidSize, .sizeTooLarge], CanRaise .ulann r :=
  List.forall_mem_cons.mpr ⟨canRaise_of_exec (i := .ulann 0#32) trivial State.smallIdle_nil_inv rfl,
    List.forall_mem_singleton.mpr (canRaise_of_exec (i := .ulann 2#32) trivial State.smallIdle_nil_inv rfl)⟩

/-- A chunk of no byte in a live transfer, and one outside a transfer. -/
theorem dlchk_canRaise : ∀ r ∈ [Reason.invalidChunk, .badState], CanRaise .dlchk r :=
  List.forall_mem_cons.mpr ⟨canRaise_of_exec (i := .dlchk []) (by decide) (State.smallAnnounced_inv .download)
      (exec_dlchk_of_invalid rfl rfl),
    List.forall_mem_singleton.mpr (canRaise_badState (i := .dlchk []) (by decide) rfl)⟩

theorem ulchk_canRaise : ∀ r ∈ [Reason.invalidChunk, .badState], CanRaise .ulchk r :=
  List.forall_mem_cons.mpr ⟨canRaise_of_exec (i := .ulchk 0#32) trivial (State.smallAnnounced_inv .upload)
      (exec_ulchk_of_invalid rfl rfl),
    List.forall_mem_singleton.mpr (canRaise_badState (i := .ulchk 0#32) trivial rfl)⟩

/-- The offset just past PKT. -/
theorem pbw_canRaise : CanRaise .pbw .badAddress :=
  canRaise_of_exec (i := .pbw 16#32 0#8) trivial State.smallIdle_nil_inv (exec_pbw_of_le (by decide) _)

/-- The first id that names no register. -/
theorem rdreg_canRaise : CanRaise .rdreg .badAddress :=
  canRaise_of_exec (i := .rdreg 0x0A#8) trivial State.smallIdle_nil_inv (exec_rdreg_of_no_register rfl _)

/-- The first space id that names no memory. -/
theorem mrd_canRaise : CanRaise .mrd .badAddress :=
  canRaise_of_exec (i := .mrd 3#8 0#32) trivial State.smallIdle_nil_inv (exec_mrd_of_no_space rfl _ _)

/-- Settles O54: a failed command is one of the failing outcomes, each of which gives the reason of its row; and each mark
of the table has a state of the smallest block. -/
theorem reasonsByCommand : Obligations.ReasonsByCommand := by
  refine ⟨fun i s t r h hr => ?only, fun o => ?each⟩
  case only =>
    cases exec_outcome h with
    | parseFailed ty r' hfailure =>
      cases Responds.unique (s.raiseFail_rspPort r') hr
      simpa [Instr.opcode] using State.packetFailure_some hfailure
    | _ => cases Responds.unique rfl hr <;> simp [Instr.opcode]
  case each =>
    cases o with
    | crcseed | crcbyte | srst => exact List.forall_mem_nil _
    | pbw => exact List.forall_mem_singleton.mpr pbw_canRaise
    | parse => exact parse_canRaise
    | dlann => exact dlann_canRaise
    | ulann => exact ulann_canRaise
    | dlchk => exact dlchk_canRaise
    | ulchk => exact ulchk_canRaise
    | dlend => exact List.forall_mem_singleton.mpr (canRaise_badState (i := .dlend) trivial rfl)
    | ulend => exact List.forall_mem_singleton.mpr (canRaise_badState (i := .ulend) trivial rfl)
    | rdreg => exact List.forall_mem_singleton.mpr rdreg_canRaise
    | mrd => exact List.forall_mem_singleton.mpr mrd_canRaise

end Sys2Proof.Machine
end

section
/-! The hardware reset (spec/70_reset_and_hazards.md): the values after it (R241), the reset between commands (R240), and the
reset with part of a command at the front of the port (R244). -/

namespace Sys2Proof.Machine

/-! ## The reset between commands (R240, R241) -/

/-- Settles O46: the registers evaluated; the invariants are those of the reset state. -/
theorem resetValues : Obligations.ResetValues :=
  ⟨rfl, fun _ => ⟨rfl, rfl⟩, resetSatisfiesInvariants.framer, resetSatisfiesInvariants.transfer⟩

/-- With the reset input asserted, an empty port or a whole front of it makes the step a hardware reset. -/
theorem step_of_reset_between_commands {s : State} (hr : s.resetPin = true)
    (hport : s.cmdPort = [] ∨ decode s.cmdPort ≠ .waiting) : step s = .next s.hardwareReset := by
  cases hd : decode s.cmdPort with
  | command i rest => simp [step, State.nextEvent, hd, hr]
  | illegal why rest => simp [step, State.nextEvent, hd, hr]
  | waiting =>
    have hempty : s.cmdPort = [] := hport.resolve_right (absurd hd)
    simp [step, State.nextEvent, hr, hempty, decode_of_short]

/-- Settles O47: the step is `hardwareReset`, which forgets what PKT and STG list and leaves the port, SRC and the
parameters. -/
theorem hardwareResetBetweenCommands : Obligations.HardwareResetBetweenCommands := fun s hr hport =>
  ⟨s.hardwareReset, step_of_reset_between_commands hr hport, rfl, rfl, rfl, rfl, rfl, fun _ => rfl, fun _ => ⟨rfl, rfl⟩⟩

/-! ## The reset inside a command (R244) -/

/-- With the reset input released, a step stops for an incomplete command only where part of one stands on the port. -/
theorem waiting_of_step_commandIncomplete {s : State} (hr : s.resetPin = false)
    (h : step s = .fault .commandIncomplete) : s.cmdPort ≠ [] ∧ decode s.cmdPort = .waiting := by
  constructor
  · intro hempty
    cases (step_of_port_empty hr hempty).symm.trans h
  · by_contra hd
    obtain ⟨t, ht⟩ := step_completes hr hd
    cases ht.symm.trans h

/-- Where the block would wait for the rest of a command, an asserted reset is refused. -/
theorem step_resetMidCommand_of_commandIncomplete {s : State} (hr : s.resetPin = true)
    (h : step { s with resetPin := false } = .fault .commandIncomplete) : step s = .refused .resetMidCommand := by
  obtain ⟨hport, hd⟩ := waiting_of_step_commandIncomplete rfl h
  exact (step_of_waiting (s := s) hport hd).trans (if_pos hr)

/-- Settles O48: with the reset input released, the block would wait on each of these ports (R102). -/
theorem resetMidCommandIsRefused : Obligations.ResetMidCommandIsRefused := by
  intro s hr
  have refused := step_resetMidCommand_of_commandIncomplete hr
  obtain ⟨-, hword, hdata, hcommand, hwaiting⟩ := incompleteCommandWaits { s with resetPin := false } rfl
  exact ⟨fun hpos hshort => refused (hword hpos hshort),
    fun len data hlen hport => refused (hdata len data hlen hport),
    fun i n hwf hpos hn hport => refused (hcommand i n hwf hpos hn hport),
    fun hne hd => refused (hwaiting hne hd)⟩

end Sys2Proof.Machine
end
